-- ==== Sys2Proof/Word.lean ====
section
/-! DEFINITION. The two word types: a region byte (R9, R41) and an operation word (R60). -/

namespace Sys2Proof

/-- A `u8`: a region byte, a region address or the cursor (R6, R9). -/
abbrev Byte := BitVec 8

/-- One 16-bit operation word of format F16 (R60). -/
abbrev OpWord := BitVec 16

end Sys2Proof
end

