-- ==== Sys2Proof/Syntax.lean ====
section
/-! DEFINITION. The operations of the opcode map (R62), the agent class of each (R60, R169), and what a word
decodes to (R65). -/

namespace Sys2Proof

/-- The fifteen operations of R62. An operand is a `u8` (R61), so every term of this type is well formed. -/
inductive Instr where
  /-- RX b: HOST wrote the byte b (R80). -/
  | rx (b : Byte)
  /-- REQ: HOST requests a byte (R84). -/
  | req
  /-- END: stop or repeated start (R86). -/
  | txEnd
  /-- LDB a: the foreground reads region byte a (R103). -/
  | ldb (a : Byte)
  /-- LDCUR: the foreground reads cursor (R104). -/
  | ldcur
  /-- LDARM: the foreground reads armed (R105). -/
  | ldarm
  /-- LDERR: the foreground reads cmd_error (R106). -/
  | lderr
  /-- STMB d: the foreground places the command byte d (R130). -/
  | stmb (d : Byte)
  /-- CLRCUR: the foreground resets cursor (R131). -/
  | clrcur
  /-- STBH: raise the strobe line (R132). -/
  | stbh
  /-- STBL: lower the strobe line (R133). -/
  | stbl
  /-- SETERR: record a command error (R134). -/
  | seterr
  /-- CLRERR: clear the command error (R135). -/
  | clrerr
  /-- DELAY: one poll sleep (R136). -/
  | delay
  /-- RESET: power-up initialisation (R180). -/
  | reset
deriving DecidableEq, Repr

/-- The agent classes of R60: who executes an operation, and in which context (R169). -/
inductive AgentClass where
  /-- 0x1: a bus event, executed by HANDLER in interrupt context. -/
  | busEvent
  /-- 0x2: a foreground read. -/
  | fgRead
  /-- 0x3: a foreground write or control. -/
  | fgWrite
  /-- 0xF: reset. -/
  | reset
deriving DecidableEq, Repr

/-- What a word decodes to (R65): one row of R62, or `Invalid(word)`. -/
inductive Decoded where
  | op (i : Instr)
  | invalid (w : OpWord)
deriving DecidableEq, Repr

end Sys2Proof
end

