-- ==== Sys2Proof/WellFormed.lean ====
section
/-! DEFINITION. When a word spells an operation: the reserved encodings of R63 and R64, one check each, written
on the word's number so that they stand apart from the decoder. Every term of `Instr` is well formed by its
type; what can be ill formed is the word. -/

namespace Sys2Proof

/-- The class is one of 0x1, 0x2, 0x3 and 0xF (R64, first and last item). -/
def classAssigned (w : OpWord) : Bool :=
  [0x1, 0x2, 0x3, 0xF].contains (w.toNat / 0x1000)

/-- How many operations a class has, from op 0x0 upward (R62, R64). -/
def opsOfClass : Nat → Nat
  | 0x1 => 3
  | 0x2 => 4
  | 0x3 => 7
  | 0xF => 1
  | _ => 0

/-- The op is assigned within its class (R64). -/
def opAssigned (w : OpWord) : Bool :=
  w.toNat / 0x100 % 0x10 < opsOfClass (w.toNat / 0x1000)

/-- The three rows that take an operand: RX, LDB and STMB (R61, R63). -/
def takesOperand (w : OpWord) : Bool :=
  [0x10, 0x20, 0x30].contains (w.toNat / 0x100)

/-- An operand-less row has imm8 = 0x00 (R60, R63). -/
def operandAllowed (w : OpWord) : Bool :=
  takesOperand w || w.toNat % 0x100 == 0

/-- The word spells an operation of R62. -/
def wellFormedWord (w : OpWord) : Bool :=
  classAssigned w && opAssigned w && operandAllowed w

end Sys2Proof
end

