-- ==== Sys2Proof/Decode.lean ====
section
/-! DEFINITION. The decoder of operation words (R60 to R66), total over all 65536 words, the opcode map of R62
as rows of match and mask, and the encoder. -/

namespace Sys2Proof

/-- `cls`, bits [15:12] (R60). -/
def clsField (w : OpWord) : BitVec 4 := w.extractLsb' 12 4

/-- `op`, bits [11:8] (R60). -/
def opField (w : OpWord) : BitVec 4 := w.extractLsb' 8 4

/-- `imm8`, bits [7:0] (R60, R61). -/
def immField (w : OpWord) : Byte := w.extractLsb' 0 8

/-- An operand-less row: it selects the word only where imm8 is zero (R63). -/
def operandless (imm : Byte) (i : Instr) : Option Instr := if imm = 0 then some i else none

/-- The row that the three fields of a word select, if one does (R62 to R64). -/
def decodeFields (cls op : BitVec 4) (imm : Byte) : Option Instr :=
  match cls.toNat, op.toNat with
  | 0x1, 0x0 => some (.rx imm)
  | 0x1, 0x1 => operandless imm .req
  | 0x1, 0x2 => operandless imm .txEnd
  | 0x2, 0x0 => some (.ldb imm)
  | 0x2, 0x1 => operandless imm .ldcur
  | 0x2, 0x2 => operandless imm .ldarm
  | 0x2, 0x3 => operandless imm .lderr
  | 0x3, 0x0 => some (.stmb imm)
  | 0x3, 0x1 => operandless imm .clrcur
  | 0x3, 0x2 => operandless imm .stbh
  | 0x3, 0x3 => operandless imm .stbl
  | 0x3, 0x4 => operandless imm .seterr
  | 0x3, 0x5 => operandless imm .clrerr
  | 0x3, 0x6 => operandless imm .delay
  | 0xF, 0x0 => operandless imm .reset
  | _, _ => none

/-- The operation a word spells, or `Invalid(word)` (R65, R66). -/
def decodeWord (w : OpWord) : Decoded :=
  match decodeFields (clsField w) (opField w) (immField w) with
  | some i => .op i
  | none => .invalid w

/-- The operation of a table word: operation words have 16 bits and no byte order (R60; log 4). -/
def decodeTableWord (_nbits w : Nat) : Option Instr :=
  if w < 2 ^ 16 then
    match decodeWord (BitVec.ofNat 16 w) with
    | .op i => some i
    | .invalid _ => none
  else none

/-- `cls ++ op ++ imm8` (R60). -/
def wordOf (cls op : BitVec 4) (imm : Byte) : OpWord := cls ++ op ++ imm

/-- The operation word of an operation (R60 to R62). -/
def encode : Instr → OpWord
  | .rx b => wordOf 0x1 0x0 b
  | .req => wordOf 0x1 0x1 0
  | .txEnd => wordOf 0x1 0x2 0
  | .ldb a => wordOf 0x2 0x0 a
  | .ldcur => wordOf 0x2 0x1 0
  | .ldarm => wordOf 0x2 0x2 0
  | .lderr => wordOf 0x2 0x3 0
  | .stmb d => wordOf 0x3 0x0 d
  | .clrcur => wordOf 0x3 0x1 0
  | .stbh => wordOf 0x3 0x2 0
  | .stbl => wordOf 0x3 0x3 0
  | .seterr => wordOf 0x3 0x4 0
  | .clrerr => wordOf 0x3 0x5 0
  | .delay => wordOf 0x3 0x6 0
  | .reset => wordOf 0xF 0x0 0

/-- The agent class of an operation (R62): it fixes the context that may execute it (R169). -/
def agentOf : Instr → AgentClass
  | .rx _ => .busEvent
  | .req => .busEvent
  | .txEnd => .busEvent
  | .ldb _ => .fgRead
  | .ldcur => .fgRead
  | .ldarm => .fgRead
  | .lderr => .fgRead
  | .stmb _ => .fgWrite
  | .clrcur => .fgWrite
  | .stbh => .fgWrite
  | .stbl => .fgWrite
  | .seterr => .fgWrite
  | .clrerr => .fgWrite
  | .delay => .fgWrite
  | .reset => .reset

/-- The class code of R60. -/
def classCode : AgentClass → BitVec 4
  | .busEvent => 0x1
  | .fgRead => 0x2
  | .fgWrite => 0x3
  | .reset => 0xF

/-- One row of R62: a word w selects it when (w AND mask) = match. -/
structure OpcodeRow where
  mtch : OpWord
  mask : OpWord
  build : Byte → Instr

/-- The selection rule of R62. -/
def rowSelects (r : OpcodeRow) (w : OpWord) : Bool := w &&& r.mask == r.mtch

/-- The opcode map of R62, in the table's order. -/
def opcodeMap : List OpcodeRow :=
  [ ⟨0x1000, 0xFF00, .rx⟩,
    ⟨0x1100, 0xFFFF, fun _ => .req⟩,
    ⟨0x1200, 0xFFFF, fun _ => .txEnd⟩,
    ⟨0x2000, 0xFF00, .ldb⟩,
    ⟨0x2100, 0xFFFF, fun _ => .ldcur⟩,
    ⟨0x2200, 0xFFFF, fun _ => .ldarm⟩,
    ⟨0x2300, 0xFFFF, fun _ => .lderr⟩,
    ⟨0x3000, 0xFF00, .stmb⟩,
    ⟨0x3100, 0xFFFF, fun _ => .clrcur⟩,
    ⟨0x3200, 0xFFFF, fun _ => .stbh⟩,
    ⟨0x3300, 0xFFFF, fun _ => .stbl⟩,
    ⟨0x3400, 0xFFFF, fun _ => .seterr⟩,
    ⟨0x3500, 0xFFFF, fun _ => .clrerr⟩,
    ⟨0x3600, 0xFFFF, fun _ => .delay⟩,
    ⟨0xF000, 0xFFFF, fun _ => .reset⟩ ]

end Sys2Proof
end

