-- ==== Sys2Proof/Config.lean ====
section
/-! DEFINITION. The values of the implementation parameters of R6 to R8: the fixed and decided ones are constants with
the spec's value, the OPEN ones are opaque constants (log 9 and 10). The parameters as one argument of the machine are
`Machine.Params`. -/

namespace Sys2Proof

/-- PRE_WAIT_TIMEOUT_ACTION (R8, D10): what step 1 of send_command does on its timeout. -/
inductive PreWaitAction where
  | proceed
  | fail
deriving DecidableEq, Repr

/-- A set of named codes (R3, N6, N7): each name with its value. -/
abbrev CodeSet := List (String × Nat)

/-- ENUM_VALUES (R8, R114, I11): the values of the four enumerated fields of the status packet. -/
structure EnumValues where
  systemState : CodeSet
  statusCode : CodeSet
  alarmSubstate : CodeSet
  currentWcs : CodeSet
deriving DecidableEq, Repr, Inhabited

/-- FIELD_BYTE_ORDER (R8, R115). -/
inductive FieldByteOrder where
  | little
  | big
deriving DecidableEq, Repr

/-- The types that a field of R114's table has. -/
inductive FieldType where
  /-- A number without sign: a code, an override, a packed byte, an index. -/
  | unsigned
  /-- A two's complement number. -/
  | signed
  /-- An IEEE 754 binary32 value. -/
  | binary32
deriving DecidableEq, Repr

/-- Where a field lies and how it is read (R8): its absolute region address, its width in bytes, its type. -/
structure PacketField where
  addr : Nat
  width : Nat
  type : FieldType
deriving DecidableEq, Repr

/-- PACKET_LAYOUT (R8, R114): the address, width and type of each field of the status packet, and the address at which
the message begins. What R114 does not say of a layout other than the reference is in log 24. -/
structure PacketLayout where
  systemState : PacketField
  statusCode : PacketField
  alarmSubstate : PacketField
  feedOverride : PacketField
  spindleOverride : PacketField
  spindleRpm : PacketField
  coordX : PacketField
  coordY : PacketField
  coordZ : PacketField
  coordA : PacketField
  jogMode : PacketField
  currentWcs : PacketField
  msgCtl : PacketField
  /-- The address of the first message byte. -/
  message : Nat
deriving DecidableEq, Repr

namespace Config

/-- MEM_SIZE (R6). -/
def memSize : Nat := 256

/-- MAILBOX_ADDR (R6). -/
def mailboxAddr : Byte := 0x00

/-- PAYLOAD_BASE (R6). -/
def payloadBase : Byte := 0x01

/-- VERSION_TAG (R7, D7): the spec's default value. -/
def versionTag : Byte := 0x02

/-- STROBE_RESET_LEVEL (R8, R33, D8): 0 is lowered. -/
def strobeResetLevel : Bool := false

/-- PRE_WAIT_TIMEOUT_ACTION (R8, R142, D10). -/
def preWaitTimeoutAction : PreWaitAction := .proceed

/-- FIELD_BYTE_ORDER (R8, R115, D17). -/
def fieldByteOrder : FieldByteOrder := .little

/-- The reference layout of R114 (D16). -/
def packetLayout : PacketLayout where
  systemState := ⟨0x01, 1, .unsigned⟩
  statusCode := ⟨0x02, 1, .unsigned⟩
  alarmSubstate := ⟨0x03, 1, .unsigned⟩
  feedOverride := ⟨0x04, 1, .unsigned⟩
  spindleOverride := ⟨0x05, 1, .unsigned⟩
  spindleRpm := ⟨0x06, 4, .signed⟩
  coordX := ⟨0x0A, 4, .binary32⟩
  coordY := ⟨0x0E, 4, .binary32⟩
  coordZ := ⟨0x12, 4, .binary32⟩
  coordA := ⟨0x16, 4, .binary32⟩
  jogMode := ⟨0x1A, 1, .unsigned⟩
  currentWcs := ⟨0x1B, 1, .unsigned⟩
  msgCtl := ⟨0x1C, 1, .unsigned⟩
  message := 0x1D

/-- I2C_ADDR (R8, R70, D23): OPEN. -/
opaque i2cAddr : BitVec 7

/-- CMD_TIMEOUT_US (R8, I3): OPEN; no rule uses its value. -/
opaque cmdTimeoutUs : Nat

/-- POLL_PERIOD_US (R8, I3): OPEN; no rule uses its value. -/
opaque pollPeriodUs : Nat

/-- One less than MAX_POLLS: OPEN (R8, R141, I4). -/
opaque extraPolls : Nat

/-- MAX_POLLS, a positive integer (R8, R141): OPEN. -/
def maxPolls : Nat := extraPolls + 1

/-- NO_HOST_STATUS (R8, R120): OPEN. -/
opaque noHostStatus : Nat

/-- The `mode` part of JOG_MODE_SPLIT (R8, R118): OPEN. -/
opaque jogMode : Nat → Nat

/-- The `modifier` part of JOG_MODE_SPLIT (R8, R118): OPEN. -/
opaque jogModifier : Nat → Nat

/-- ENUM_VALUES (R8, N7): OPEN. -/
opaque enumValues : EnumValues

/-- CMD_CODES, the outbound command-code set (R8, R130, N6): OPEN. -/
opaque cmdCodes : CodeSet

end Config

end Sys2Proof
end

