-- ==== Sys2Proof/Machine/State.lean ====
section
/-! DEFINITION. The state vector of the block (R20), the control state of its agents (R27), the inputs and outputs
of the step (R35), and reset (R33, R183). -/

namespace Sys2Proof.Machine

/-- The region `bytes[0..255]` (R21, R40) as a list of (address, byte) cells in one canonical form; an address that
is not listed reads as 0x00, the reset contents (R21, R33; log 16). -/
abbrev Memory := List Host.Cell

/-- The canonical form: addresses strictly rising and inside the region, and no cell that holds 0x00. -/
abbrev Memory.wf (m : Memory) : Prop :=
  m.Pairwise (fun c d => c.1 < d.1) ∧ ∀ c ∈ m, c.1 < 256 ∧ c.2 ≠ 0

/-- The ghost phase of R29. -/
inductive Phase where
  | idle
  | addressing
  | streaming
deriving DecidableEq, Repr

/-- The state of the block: the tuple of R20 and nothing else (R28). -/
structure Block where
  /-- The region (R21). -/
  bytes : Memory
  /-- The next index to read or write (R22). -/
  cursor : Byte
  /-- True once the address byte of a write transaction has come (R23). -/
  armed : Bool
  /-- The level of the strobe output line (R25). -/
  strobe : Bool
  /-- The sticky command-error flag (R26). -/
  cmdError : Bool
  /-- The ghost phase (R29): no operation's other effects depend on it. -/
  phase : Phase
deriving DecidableEq, Repr

/-- The block events of R161; CMD_TIMEOUT is the only one. -/
inductive BlockEvent where
  | cmdTimeout
deriving DecidableEq, Repr

/-- The arguments of send_command (R140); `rsu` has no effect (R148). -/
structure SendArgs where
  byte : Byte
  clr : Bool
  rsu : Bool
deriving DecidableEq, Repr

/-- What send_command returns (R140, R151). -/
inductive SendResult where
  | success
  | failure
deriving DecidableEq, Repr

/-- The lines of send_command that are steps (R140); `n` counts the failing polls of the loop so far. -/
inductive SendLine where
  | preArmed (n : Nat)
  | preCursor (n : Nat)
  | preDelay (n : Nat)
  | place
  | clearCursor
  | raiseStrobe
  | poll (n : Nat)
  | pollDelay (n : Nat)
  | report
  | lowerStrobe (r : SendResult)
deriving DecidableEq, Repr

/-- Which read a snapshot makes: n bytes from lo, or the status packet (R110). -/
inductive SnapKind where
  | region
  | packet
deriving DecidableEq, Repr

/-- The lines of snapshot_read that are steps (R110), with its locals: the address of the next byte, how many bytes
are left to read, and the bytes read, in order. -/
inductive SnapLine where
  | firstCheck (lo : Byte) (n : Nat)
  | readByte (a : Byte) (left : Nat) (got : List Byte)
  | lastCheck (got : List Byte)
deriving DecidableEq, Repr

/-- A line of a foreground procedure (R27): the procedure and the step in it. -/
inductive ProcLine where
  | send (args : SendArgs) (line : SendLine)
  | snap (kind : SnapKind) (line : SnapLine)
deriving DecidableEq, Repr

/-- The boot steps of R182 that follow its step 1, which the RESET operation itself performs (log 7). -/
inductive BootStep where
  | driveStrobe
  | configureI2c
  | enableInterrupt
  | startLoop
deriving DecidableEq, Repr

/-- The position of FG (R27, R180 to R183). -/
inductive FgPos where
  | boot (b : BootStep)
  | loop
  | proc (q : ProcLine)
deriving DecidableEq, Repr

/-- A procedure call of the Application Loop: send_command (R140), snapshot_read(lo, n), or read_packet (R110). -/
inductive Call where
  | send (args : SendArgs)
  | snap (lo : Byte) (n : Nat)
  | readPacket
deriving DecidableEq, Repr

/-- What a procedure returned: SUCCESS or FAILURE (R151), OK(v) as `some v`, SKIP as `none` (R110). -/
inductive ProcReturn where
  | sent (r : SendResult)
  | snapshot (kind : SnapKind) (v : Option (List Byte))
deriving DecidableEq, Repr

/-- The foreground agent FG (R4, R27): its position, its last read value (R167), and the calls and returns of its
procedures, which are inputs and outputs of the machine (R35). -/
structure Foreground where
  pos : FgPos
  /-- The value the last foreground read delivered, `result(v)` (R10, R167). -/
  result : Byte
  /-- The calls still to make, each begun when the one before it has returned (R149). -/
  calls : List Call
  /-- What the procedures returned, oldest first. -/
  returns : List ProcReturn
deriving DecidableEq, Repr

/-- One element of an interleaving (R5, R48): an operation word, FG's next step with the answer `draw()` gives if
that step is a failing poll (R141), or a TIMER step (R165). -/
inductive Input where
  | word (w : OpWord)
  | fg (draw : Bool)
  | timer
deriving DecidableEq, Repr

/-- The machine: the block, FG, the event history (R161), the bytes REQ has driven to HOST (R84), oldest first, and
the interleaving still to run (R48; log 1). -/
structure State where
  block : Block
  fg : Foreground
  events : List BlockEvent
  driven : List Byte
  schedule : List Input
deriving DecidableEq, Repr

/-- No operation of the block faults (R89, R160, I26): nothing raises a fault, so the type is empty. Safe: nothing is
cut short by it. -/
inductive Fault where
deriving DecidableEq, Repr

/-- Why the model gives no meaning. -/
inductive Refusal where
  /-- Raised by an arm of exec whose instruction has no meaning yet; no arm raises it. Safe: the run stops. -/
  | notModelled (mnemonic : String)
  /-- Raised by the step for a word that spells no operation, `Invalid(word)` (R66, I20): the refusal mark of the
  run. Safe: no claim holds of a run that contains one. -/
  | invalidWord (w : OpWord)
deriving DecidableEq, Repr

/-- The reset values of R33. -/
def Block.reset : Block where
  bytes := []
  cursor := 0
  armed := false
  strobe := Config.strobeResetLevel
  cmdError := false
  phase := .idle

/-- The machine right after reset: clean_entry of R183, the state after step 4 of the boot order (R182; log 8). The
value of `result` is the model's (log 5). -/
def State.reset : State where
  block := Block.reset
  fg := { pos := .loop, result := 0, calls := [], returns := [] }
  events := []
  driven := []
  schedule := []

end Sys2Proof.Machine
end

