-- ==== Sys2Proof/Machine/Ops.lean ====
section
/-! DEFINITION. The named operations over the region, the block's registers, the agents' outputs and the event
history (R10, R11, R40 to R42), and `raise`, the one thing the spec has in place of an exception (R160, R161). -/

namespace Sys2Proof.Machine

/-- What the region holds at an address (R21, R49): an unlisted address holds 0x00. -/
def Memory.read : Memory → Nat → Byte
  | [], _ => 0
  | c :: m, a => if c.1 = a then c.2 else Memory.read m a

/-- The cells of every other address. -/
def Memory.erase (m : Memory) (a : Nat) : Memory := m.filter (fun c => c.1 != a)

/-- A cell put at its place in the rising order. -/
def Memory.insert : Memory → Nat → Byte → Memory
  | [], a, v => [(a, v)]
  | c :: m, a, v => if a < c.1 then (a, v) :: c :: m else c :: Memory.insert m a v

/-- The region after `bytes[a] <- v`; writing 0x00 removes the cell, so the form stays canonical. -/
def Memory.write (m : Memory) (a : Nat) (v : Byte) : Memory :=
  if v = 0 then Memory.erase m a else Memory.insert (Memory.erase m a) a v

/-- The cursor increment `(x + 1) mod 256` (R9, R42). -/
def nextAddr (x : Byte) : Byte := x + 1

/-- `bytes[a]` (R10). -/
def Block.readByte (k : Block) (a : Byte) : Byte := k.bytes.read a.toNat

/-- `bytes[a] <- v` (R10). -/
def Block.writeByte (k : Block) (a v : Byte) : Block := { k with bytes := k.bytes.write a.toNat v }

/-- `MemRead(a, n)`: n separate single-byte reads at a, a + 1, ... mod 256 (R10, R41). -/
def Block.memRead (k : Block) (a : Byte) : Nat → List Byte
  | 0 => []
  | n + 1 => k.readByte a :: k.memRead (nextAddr a) n

/-- `cursor <- c` (R10, R22). -/
def Block.setCursor (k : Block) (c : Byte) : Block := { k with cursor := c }

/-- `phase <- p`, the ghost (R29). -/
def Block.setPhase (k : Block) (p : Phase) : Block := { k with phase := p }

/-- The state with another block. -/
def State.setBlock (s : State) (k : Block) : State := { s with block := k }

/-- `result(v)`: v is delivered to the foreground (R10). -/
def State.deliver (s : State) (v : Byte) : State := { s with fg := { s.fg with result := v } }

/-- `return v` of a REQ rule: v is driven to HOST (R10, R84). -/
def State.drive (s : State) (v : Byte) : State := { s with driven := s.driven ++ [v] }

/-- The event code of R161. -/
def eventCode : BlockEvent → Byte
  | .cmdTimeout => 0x01

/-- `raise`: the event is recorded in the history, and control goes nowhere (R11, R160, R161). The block has no trap
entry and no trap return (R160). -/
def State.raiseEvent (s : State) (e : BlockEvent) : State := { s with events := s.events ++ [e] }

/-- FG moves to another position (R27). -/
def State.setFgPos (s : State) (p : FgPos) : State := { s with fg := { s.fg with pos := p } }

/-- FG's calls still to make (R149). -/
def State.setCalls (s : State) (cs : List Call) : State := { s with fg := { s.fg with calls := cs } }

/-- A procedure returns: its result is recorded and FG is back in its loop (R140, R149). -/
def State.procReturn (s : State) (r : ProcReturn) : State :=
  { s with fg := { s.fg with pos := .loop, returns := s.fg.returns ++ [r] } }

/-- The interleaving still to run (R48). -/
def State.setSchedule (s : State) (l : List Input) : State := { s with schedule := l }

end Sys2Proof.Machine
end

