-- ==== Sys2Proof/Machine/Flags.lean ====
section
/-! DEFINITION. The Boolean status bits armed, strobe and cmd_error (R23, R25, R26, R34) and the ghost phase
(R29, R30). The block has no condition codes (R34). -/

namespace Sys2Proof.Machine

/-- `armed <- v` (R23). -/
def Block.setArmed (k : Block) (v : Bool) : Block := { k with armed := v }

/-- `strobe <- v` (R25). -/
def Block.setStrobe (k : Block) (v : Bool) : Block := { k with strobe := v }

/-- `cmd_error <- v` (R26). -/
def Block.setCmdError (k : Block) (v : Bool) : Block := { k with cmdError := v }

/-- `zext_8` of a status bit (R9, R105, R106). -/
def flagByte (v : Bool) : Byte := if v then 1 else 0

/-- The phase after REQ (R30, R84): only ADDRESSING moves. -/
def phaseAfterReq : Phase → Phase
  | .idle => .idle
  | .addressing => .streaming
  | .streaming => .streaming

/-- The strobe edge HOST is notified by: 0 before the step, 1 after it (R25, R132, R147). -/
def risingEdge (before after : Block) : Bool := !before.strobe && after.strobe

end Sys2Proof.Machine
end

