-- ==== Sys2Proof/Machine/Operands.lean ====
section
/-! DEFINITION. The operand forms: the address byte of a transaction (R100), the byte at the cursor with its
post-increment (R82, R84), a region byte by absolute address (R103), and the mailbox (R130). -/

namespace Sys2Proof.Machine

/-- `addr_decode` for a given version tag and payload base (R100; the tag is a parameter by R7). -/
def addrDecodeWith (tag base b : Byte) : Byte := if b = tag then base else b

/-- `addr_decode` with the spec's VERSION_TAG (R100). -/
def addrDecode (b : Byte) : Byte := addrDecodeWith Config.versionTag Config.payloadBase b

/-- `cursor <- (cursor + 1) mod 256` (R42). -/
def Block.advanceCursor (k : Block) : Block := k.setCursor (nextAddr k.cursor)

/-- `bytes[cursor]`, the byte REQ returns (R84). -/
def Block.cursorByte (k : Block) : Byte := k.readByte k.cursor

/-- `bytes[cursor] <- b`, then the increment (R82). -/
def Block.storeAtCursor (k : Block) (b : Byte) : Block := (k.writeByte k.cursor b).advanceCursor

/-- `bytes[MAILBOX_ADDR] <- d` (R130). -/
def Block.storeMailbox (k : Block) (d : Byte) : Block := k.writeByte Config.mailboxAddr d

end Sys2Proof.Machine
end

