-- ==== Sys2Proof/Machine/Params.lean ====
section
/-! DEFINITION. The implementation parameters of R7 and R8 as one argument of the machine's operations and steps (R35):
they are configuration, and no part of any state. A claim quantifies over them (D7). -/

namespace Sys2Proof.Machine

/-- The parameters of R7 and R8 (I1 to I13). -/
structure Params where
  /-- VERSION_TAG (R7, I2). -/
  versionTag : Byte
  /-- STROBE_RESET_LEVEL (R180, I8). -/
  strobeResetLevel : Bool
  /-- MAX_POLLS (R141, I4): the failing poll of this number must end a wait. -/
  maxPolls : Nat
  /-- PRE_WAIT_TIMEOUT_ACTION (R142, I6). -/
  preWait : PreWaitAction
  /-- REQ_UPDATE_EFFECT (R148, I7): what a call of send_command that asks for a status update makes of its arguments
  and of the block (log 20). -/
  reqUpdateEffect : SendArgs → Block → SendArgs × Block
  /-- PACKET_LAYOUT (R114, I9). -/
  packetLayout : PacketLayout
  /-- FIELD_BYTE_ORDER (R115, I10). -/
  fieldByteOrder : FieldByteOrder
  /-- JOG_MODE_SPLIT (R118, I12): the `mode` and the `modifier` of the raw byte, taken as a number. -/
  jogMode : Nat → Nat
  jogModifier : Nat → Nat
  /-- ENUM_VALUES (R114, I11). -/
  enumValues : EnumValues
  /-- NO_HOST_STATUS (R120, I11). -/
  noHostStatus : Nat
  /-- CMD_CODES (R130, I13). -/
  cmdCodes : CodeSet
  /-- I2C_ADDR (R70, I1). -/
  i2cAddr : BitVec 7
  /-- CMD_TIMEOUT_US and POLL_PERIOD_US (R141, I3): no rule uses their values. -/
  cmdTimeoutUs : Nat
  pollPeriodUs : Nat

/-- The default of REQ_UPDATE_EFFECT: no effect on block state or on the step sequence (R8, R148, D13). -/
def noUpdateEffect (args : SendArgs) (k : Block) : SendArgs × Block := (args, k)

/-- The parameters at the spec's values, with those it leaves OPEN free (log 9 and 10). -/
def specParams : Params where
  versionTag := Config.versionTag
  strobeResetLevel := Config.strobeResetLevel
  maxPolls := Config.maxPolls
  preWait := Config.preWaitTimeoutAction
  reqUpdateEffect := noUpdateEffect
  packetLayout := Config.packetLayout
  fieldByteOrder := Config.fieldByteOrder
  jogMode := Config.jogMode
  jogModifier := Config.jogModifier
  enumValues := Config.enumValues
  noHostStatus := Config.noHostStatus
  cmdCodes := Config.cmdCodes
  i2cAddr := Config.i2cAddr
  cmdTimeoutUs := Config.cmdTimeoutUs
  pollPeriodUs := Config.pollPeriodUs

end Sys2Proof.Machine
end

