-- ==== Sys2Proof/Machine/BusEvents.lean ====
section
/-! DEFINITION. The bus events RX, REQ and END of the Bus Transaction Handler (R80 to R90). -/

namespace Sys2Proof.Machine

/-- RX in the address phase (R81): the byte sets the cursor and is stored nowhere. VERSION_TAG is a parameter (R7). -/
def Block.rxAddress (p : Params) (k : Block) (b : Byte) : Block :=
  ((k.setCursor (addrDecodeWith p.versionTag Config.payloadBase b)).setArmed true).setPhase .addressing

/-- RX in the data phase (R82). -/
def Block.rxData (k : Block) (b : Byte) : Block := (k.storeAtCursor b).setPhase .streaming

/-- RX b (R80) under given parameters: armed chooses the phase. -/
def execRxWith (p : Params) (b : Byte) (s : State) : Host.Outcome State Fault Refusal :=
  .next (s.setBlock (if s.block.armed then s.block.rxData b else s.block.rxAddress p b))

/-- RX b (R80) with the spec's parameters. -/
def execRx (b : Byte) (s : State) : Host.Outcome State Fault Refusal := execRxWith specParams b s

/-- REQ (R84): `bytes[cursor]` goes to HOST and the cursor advances; armed is neither read nor written (D31). -/
def execReq (s : State) : Host.Outcome State Fault Refusal :=
  .next ((s.setBlock (s.block.advanceCursor.setPhase (phaseAfterReq s.block.phase))).drive s.block.cursorByte)

/-- END (R86): the cursor is kept. -/
def execTxEnd (s : State) : Host.Outcome State Fault Refusal :=
  .next (s.setBlock ((s.block.setArmed false).setPhase .idle))

end Sys2Proof.Machine
end

