-- ==== Sys2Proof/Machine/CommandOps.lean ====
section
/-! DEFINITION. The foreground writes and controls STMB, CLRCUR, STBH, STBL, SETERR, CLRERR and DELAY
(R130 to R136). -/

namespace Sys2Proof.Machine

/-- STMB d (R130). -/
def execStmb (d : Byte) (s : State) : Host.Outcome State Fault Refusal :=
  .next (s.setBlock (s.block.storeMailbox d))

/-- CLRCUR (R131): armed and phase are kept. -/
def execClrcur (s : State) : Host.Outcome State Fault Refusal :=
  .next (s.setBlock (s.block.setCursor 0))

/-- STBH (R132). -/
def execStbh (s : State) : Host.Outcome State Fault Refusal :=
  .next (s.setBlock (s.block.setStrobe true))

/-- STBL (R133). -/
def execStbl (s : State) : Host.Outcome State Fault Refusal :=
  .next (s.setBlock (s.block.setStrobe false))

/-- SETERR (R134): the sticky flag, and the event CMD_TIMEOUT each time. -/
def execSeterr (s : State) : Host.Outcome State Fault Refusal :=
  .next ((s.setBlock (s.block.setCmdError true)).raiseEvent .cmdTimeout)

/-- CLRERR (R135). -/
def execClrerr (s : State) : Host.Outcome State Fault Refusal :=
  .next (s.setBlock (s.block.setCmdError false))

/-- DELAY (R136): no change; bus events may come before the next step. -/
def execDelay (s : State) : Host.Outcome State Fault Refusal := .next s

end Sys2Proof.Machine
end

