-- ==== Sys2Proof/Machine/ForegroundReads.lean ====
section
/-! DEFINITION. The foreground reads LDB, LDCUR, LDARM and LDERR (R103 to R106): each delivers one byte to FG and
writes no state of the block. -/

namespace Sys2Proof.Machine

/-- LDB a (R103). -/
def execLdb (a : Byte) (s : State) : Host.Outcome State Fault Refusal :=
  .next (s.deliver (s.block.readByte a))

/-- LDCUR (R104). -/
def execLdcur (s : State) : Host.Outcome State Fault Refusal :=
  .next (s.deliver s.block.cursor)

/-- LDARM (R105). -/
def execLdarm (s : State) : Host.Outcome State Fault Refusal :=
  .next (s.deliver (flagByte s.block.armed))

/-- LDERR (R106). -/
def execLderr (s : State) : Host.Outcome State Fault Refusal :=
  .next (s.deliver (flagByte s.block.cmdError))

end Sys2Proof.Machine
end

