-- ==== Sys2Proof/Machine/Reset.lean ====
section
/-! DEFINITION. The RESET operation (R180, R181) and the boot steps that follow it (R182). -/

namespace Sys2Proof.Machine

/-- The block after R180: every byte 0x00 (no cell listed) and the registers. STROBE_RESET_LEVEL is a parameter (R8). -/
def Block.powerUp (p : Params) : Block where
  bytes := []
  cursor := 0
  armed := false
  strobe := p.strobeResetLevel
  cmdError := false
  phase := .idle

/-- RESET (R180) under given parameters: all of S, and FG at the start of boot; a procedure in progress is abandoned,
without a result. -/
def execResetWith (p : Params) (s : State) : Host.Outcome State Fault Refusal :=
  .next ((s.setBlock (Block.powerUp p)).setFgPos (.boot .driveStrobe))

/-- RESET (R180) with the spec's parameters. -/
def execReset (s : State) : Host.Outcome State Fault Refusal := execResetWith specParams s

/-- One boot step (R182, steps 2 to 5). Steps 3 and 4 act on the bus controller, of which the spec gives the block no
state (R164, R171). -/
def bootStep (p : Params) (b : BootStep) (s : State) : Host.Outcome State Fault Refusal :=
  match b with
  | .driveStrobe => .next ((s.setBlock (s.block.setStrobe p.strobeResetLevel)).setFgPos (.boot .configureI2c))
  | .configureI2c => .next (s.setFgPos (.boot .enableInterrupt))
  | .enableInterrupt => .next (s.setFgPos (.boot .startLoop))
  | .startLoop => .next (s.setFgPos .loop)

end Sys2Proof.Machine
end

