-- ==== Sys2Proof/Machine/Dispatch.lean ====
section
/-! DEFINITION. One arm per operation of R62. -/

namespace Sys2Proof.Machine

def exec (i : Instr) (s : State) : Host.Outcome State Fault Refusal :=
  match i with
  | .rx b => Sys2Proof.Machine.execRx b s
  | .req => Sys2Proof.Machine.execReq s
  | .txEnd => Sys2Proof.Machine.execTxEnd s
  | .ldb a => Sys2Proof.Machine.execLdb a s
  | .ldcur => Sys2Proof.Machine.execLdcur s
  | .ldarm => Sys2Proof.Machine.execLdarm s
  | .lderr => Sys2Proof.Machine.execLderr s
  | .stmb d => Sys2Proof.Machine.execStmb d s
  | .clrcur => Sys2Proof.Machine.execClrcur s
  | .stbh => Sys2Proof.Machine.execStbh s
  | .stbl => Sys2Proof.Machine.execStbl s
  | .seterr => Sys2Proof.Machine.execSeterr s
  | .clrerr => Sys2Proof.Machine.execClrerr s
  | .delay => Sys2Proof.Machine.execDelay s
  | .reset => Sys2Proof.Machine.execReset s

end Sys2Proof.Machine
end

