-- ==== Sys2Proof/Machine/ExecWith.lean ====
section
/-! DEFINITION. The operations under given parameters (R7, R8, R35). `exec` is this at `specParams`. -/

namespace Sys2Proof.Machine

/-- An operation under given parameters: RX reads VERSION_TAG, RESET reads STROBE_RESET_LEVEL, and no other operation
depends on a parameter. -/
def execWith (p : Params) (i : Instr) (s : State) : Host.Outcome State Fault Refusal :=
  match i with
  | .rx b => execRxWith p b s
  | .reset => execResetWith p s
  | .req => exec .req s
  | .txEnd => exec .txEnd s
  | .ldb a => exec (.ldb a) s
  | .ldcur => exec .ldcur s
  | .ldarm => exec .ldarm s
  | .lderr => exec .lderr s
  | .stmb d => exec (.stmb d) s
  | .clrcur => exec .clrcur s
  | .stbh => exec .stbh s
  | .stbl => exec .stbl s
  | .seterr => exec .seterr s
  | .clrerr => exec .clrerr s
  | .delay => exec .delay s

end Sys2Proof.Machine
end

