-- ==== Sys2Proof/Machine/Packet.lean ====
section
/-! DEFINITION. The status-packet view over the region (R113 to R120): what the Status Packet Decoder makes of the
bytes a snapshot read. The decoder is an output only: no state of the block changes with it. -/

namespace Sys2Proof.Machine

/-- The bytes of a field put together, most significant first in the result (R115; the order is a parameter, R8). -/
def assembleBytes : FieldByteOrder → List Byte → Nat
  | .little, [] => 0
  | .little, b :: bs => b.toNat + 256 * assembleBytes .little bs
  | .big, bs => bs.foldl (fun n b => 256 * n + b.toNat) 0

/-- An IEEE 754 binary32 value (R114, G4): a finite value is (-1)^sign * significand * 2^exponent (log 14). -/
inductive Binary32 where
  | finite (negative : Bool) (significand : Nat) (exponent : Int)
  | infinity (negative : Bool)
  | nan (negative : Bool) (payload : BitVec 23)
deriving DecidableEq, Repr

/-- The exponent bits [30:23] (R117). -/
def exponentBits (raw : BitVec 32) : BitVec 8 := raw.extractLsb' 23 8

/-- The fraction bits [22:0] (R117). -/
def fractionBits (raw : BitVec 32) : BitVec 23 := raw.extractLsb' 0 23

/-- The NaN test of R117: exponent bits 0xFF and fraction bits not zero, with either sign. -/
def isNan (raw : BitVec 32) : Bool := exponentBits raw == 0xFF && fractionBits raw != 0

/-- The bit pattern read as a binary32 value (R115). -/
def binary32 (raw : BitVec 32) : Binary32 :=
  if isNan raw then .nan raw.msb (fractionBits raw)
  else if exponentBits raw = 0xFF then .infinity raw.msb
  else if exponentBits raw = 0 then .finite raw.msb (fractionBits raw).toNat (-149)
  else .finite raw.msb (2 ^ 23 + (fractionBits raw).toNat) ((exponentBits raw).toNat - 150)

/-- What the type of a field makes of its raw number (R114, R115). -/
inductive Reading where
  | unsigned (n : Nat)
  | signed (i : Int)
  | binary32 (v : Binary32)
deriving DecidableEq, Repr

/-- A decoded field: its raw number, the bytes put together (R115), and that number as its type reads it. -/
structure FieldValue where
  raw : Nat
  reading : Reading
deriving DecidableEq, Repr

/-- A raw number as a field of a given width and type reads it (R115). DESIGN CHOICE (log 24): a binary32 field whose
width is not 4 is read from the lowest 32 bits of its raw number. -/
def readAs (width : Nat) (type : FieldType) (raw : Nat) : Reading :=
  match type with
  | .unsigned => .unsigned raw
  | .signed => .signed (BitVec.ofNat (8 * width) raw).toInt
  | .binary32 => .binary32 (binary32 (BitVec.ofNat 32 raw))

/-- The fourth axis (R117): absent is a legitimate signal and no error. -/
inductive Axis where
  | absent
  | present (v : FieldValue)
deriving DecidableEq, Repr

/-- coordinate.a as the decoder reports it (R117): a NaN, of either sign and any payload, is the absent axis. DESIGN
CHOICE (log 24): an axis field of another type than binary32 is always present. -/
def axisOf (f : FieldValue) : Axis :=
  match f.reading with
  | .binary32 (.nan _ _) => .absent
  | .binary32 _ => .present f
  | .unsigned _ => .present f
  | .signed _ => .present f

/-- The classes of msg_ctl (R119). -/
inductive MsgCtl where
  | noMessage
  | length (n : Nat)
  | reserved (code : Nat)
  | overrides
  | offset
  | clearMessage
deriving DecidableEq, Repr

/-- The table of R119 (D18). DESIGN CHOICE (log 24): a number above 255, which only a msg_ctl wider than the reference
layout's one byte can hold, is reserved. -/
def classifyMsgCtl (c : Nat) : MsgCtl :=
  if c = 0 then .noMessage
  else if c ≤ 127 then .length c
  else if c = 253 then .overrides
  else if c = 254 then .offset
  else if c = 255 then .clearMessage
  else .reserved c

/-- How many message bytes a msg_ctl announces (R110, R119). -/
def messageLength (c : Nat) : Nat :=
  match classifyMsgCtl c with
  | .length n => n
  | _ => 0

/-- The typed view of R114. The enumerations, jog_mode and current_wcs are delivered as they are, their values being
OPEN (R3, R118); no version tag is among the fields (R102). -/
structure Packet where
  systemState : FieldValue
  statusCode : FieldValue
  alarmSubstate : FieldValue
  feedOverride : FieldValue
  spindleOverride : FieldValue
  spindleRpm : FieldValue
  coordX : FieldValue
  coordY : FieldValue
  coordZ : FieldValue
  coordA : Axis
  jogMode : FieldValue
  currentWcs : FieldValue
  msgCtl : MsgCtl
  /-- The message bytes, raw (I24). -/
  message : List Byte
deriving DecidableEq, Repr

/-- The fields of the part of fixed length. -/
def layoutFields (lay : PacketLayout) : List PacketField :=
  [lay.systemState, lay.statusCode, lay.alarmSubstate, lay.feedOverride, lay.spindleOverride, lay.spindleRpm,
    lay.coordX, lay.coordY, lay.coordZ, lay.coordA, lay.jogMode, lay.currentWcs, lay.msgCtl]

/-- The lowest address of a field: 0x01 in the reference layout, where the packet read begins (R110). DESIGN CHOICE (log
24): so it begins in every other layout. -/
def packetBase (lay : PacketLayout) : Nat :=
  (layoutFields lay).foldl (fun m f => min m f.addr) lay.systemState.addr

/-- The address after the highest byte of a field: 0x1D in the reference layout (R110). DESIGN CHOICE (log 24): the fixed
part of the packet read goes up to there in every other layout. -/
def packetEnd (lay : PacketLayout) : Nat := (layoutFields lay).foldl (fun m f => max m (f.addr + f.width)) 0

/-- How many bytes the part of fixed length has: those of 0x01..0x1C in the reference layout (R110); in another, from the
lowest byte of a field to the highest, with any gap between them (DESIGN CHOICE, log 24). -/
def packetFixedLength (lay : PacketLayout) : Nat := packetEnd lay - packetBase lay

/-- The byte at a region address, in a snapshot that begins at the layout's lowest (log 24). -/
def snapByte (lay : PacketLayout) (v : List Byte) (addr : Nat) : Byte := v.getD (addr - packetBase lay) 0

/-- The bytes of a field put together (R115). -/
def fieldRaw (lay : PacketLayout) (order : FieldByteOrder) (v : List Byte) (f : PacketField) : Nat :=
  assembleBytes order ((List.range f.width).map (fun j => snapByte lay v (f.addr + j)))

/-- A field of a snapshot (R114, R115). -/
def fieldValue (lay : PacketLayout) (order : FieldByteOrder) (v : List Byte) (f : PacketField) : FieldValue where
  raw := fieldRaw lay order v f
  reading := readAs f.width f.type (fieldRaw lay order v f)

/-- The packet a snapshot holds (R114 to R119). DESIGN CHOICE for bytes that no packet read gives (log 15): none if
there are fewer than the layout's fixed part; and with the fixed part but fewer message bytes than msg_ctl announces,
the class of msg_ctl as it stands, and as the message the bytes that are there. -/
def decodePacket (lay : PacketLayout) (order : FieldByteOrder) (v : List Byte) : Option Packet :=
  if v.length < packetFixedLength lay then none
  else
    let ctl := fieldRaw lay order v lay.msgCtl
    some
      { systemState := fieldValue lay order v lay.systemState
        statusCode := fieldValue lay order v lay.statusCode
        alarmSubstate := fieldValue lay order v lay.alarmSubstate
        feedOverride := fieldValue lay order v lay.feedOverride
        spindleOverride := fieldValue lay order v lay.spindleOverride
        spindleRpm := fieldValue lay order v lay.spindleRpm
        coordX := fieldValue lay order v lay.coordX
        coordY := fieldValue lay order v lay.coordY
        coordZ := fieldValue lay order v lay.coordZ
        coordA := axisOf (fieldValue lay order v lay.coordA)
        jogMode := fieldValue lay order v lay.jogMode
        currentWcs := fieldValue lay order v lay.currentWcs
        msgCtl := classifyMsgCtl ctl
        message := (v.drop (packetFixedLength lay)).take (messageLength ctl) }

/-- `mode` and `modifier` of jog_mode: functions of the raw byte that JOG_MODE_SPLIT gives (R118). -/
def jogSplit (p : Params) (pk : Packet) : Nat × Nat := (p.jogMode pk.jogMode.raw, p.jogModifier pk.jogMode.raw)

/-- The name that a code set gives a number, if it gives one. -/
def codeName (codes : CodeSet) (n : Nat) : Option String := (codes.find? (fun c => c.2 == n)).map (fun c => c.1)

/-- The names that ENUM_VALUES gives the enumerated fields of a packet (R114). -/
structure PacketNames where
  systemState : Option String
  statusCode : Option String
  alarmSubstate : Option String
  currentWcs : Option String
deriving DecidableEq, Repr

/-- The enumerated fields of a packet under ENUM_VALUES (R114): a value with no name is still a legal byte. -/
def packetNames (p : Params) (pk : Packet) : PacketNames where
  systemState := codeName p.enumValues.systemState pk.systemState.raw
  statusCode := codeName p.enumValues.statusCode pk.statusCode.raw
  alarmSubstate := codeName p.enumValues.alarmSubstate pk.alarmSubstate.raw
  currentWcs := codeName p.enumValues.currentWcs pk.currentWcs.raw

/-- What CMD_CODES says a command byte means (R130); STMB takes any byte (I13). -/
def commandName (p : Params) (d : Byte) : Option String := codeName p.cmdCodes d.toNat

/-- `host_connected = (status_code != NO_HOST_STATUS)` (R120; the status is a parameter), on the raw number. -/
def hostConnected (noHost : Nat) (pk : Packet) : Bool := pk.statusCode.raw != noHost

/-- What the decoder's consumers may show of a procedure's return: nothing of a SKIP (R110, P7), nothing while no host
is connected (R120), and else the packet of a read_packet. DESIGN CHOICE (log 21): the OK of a plain snapshot_read and
the return of send_command give the consumers no packet, whatever the bytes. -/
def consumerUpdateWith (noHost : Nat) (lay : PacketLayout) (order : FieldByteOrder) : ProcReturn → Option Packet
  | .snapshot .packet (some v) => (decodePacket lay order v).filter (hostConnected noHost)
  | .snapshot .packet none => none
  | .snapshot .region _ => none
  | .sent _ => none

/-- The consumer under given parameters. -/
def consumerUpdate (p : Params) (r : ProcReturn) : Option Packet :=
  consumerUpdateWith p.noHostStatus p.packetLayout p.fieldByteOrder r

/-- `cursor - PAYLOAD_BASE`, the software notion of R113, from a value LDCUR read; the block guarantees nothing
of it. DESIGN CHOICE (log 22): the subtraction is that of bytes, so that a cursor of 0 gives 255. -/
def confirmedLength (cur : Byte) : Byte := cur - Config.payloadBase

end Sys2Proof.Machine
end

