-- ==== Sys2Proof/Machine/Foreground.lean ====
section
/-! DEFINITION. The foreground procedures send_command (R140 to R151) and snapshot_read (R110 to R113): which
primitive each line executes, where FG goes from the line, and one FG step. A step executes one primitive
through `execWith`, so that any number of bus events may fall between two of them (R48, R167). -/

namespace Sys2Proof.Machine

/-- Where a line leads: another line, or the procedure's return. -/
inductive ProcNext where
  | line (q : ProcLine)
  | done (r : ProcReturn)
deriving DecidableEq, Repr

/-- The primitive a line of send_command executes (R140). -/
def sendPrimitive (args : SendArgs) : SendLine → Instr
  | .preArmed _ => .ldarm
  | .preCursor _ => .ldcur
  | .preDelay _ => .delay
  | .place => .stmb args.byte
  | .clearCursor => .clrcur
  | .raiseStrobe => .stbh
  | .poll _ => .ldcur
  | .pollDelay _ => .delay
  | .report => .seterr
  | .lowerStrobe _ => .stbl

/-- The n-th failing poll ends the wait: the bound is met, or the draw says so (R141). -/
def waitEnds (p : Params) (n : Nat) (draw : Bool) : Bool := p.maxPolls ≤ n || draw

/-- Step 6 (R147): STBL if clear_strobe_after, on SUCCESS and on FAILURE alike; then the return. -/
def sendFinish (args : SendArgs) (r : SendResult) : ProcNext :=
  if args.clr then .line (.send args (.lowerStrobe r)) else .done (.sent r)

/-- The step-1 timeout (R142): PRE_WAIT_TIMEOUT_ACTION; `fail` returns FAILURE without steps 2 to 6 (D10). -/
def preWaitTimeout (p : Params) (args : SendArgs) : ProcNext :=
  match p.preWait with
  | .proceed => .line (.send args .place)
  | .fail => .done (.sent .failure)

/-- Where a line of send_command leads, when its primitive delivered v (R140); rsu plays no part (R148). -/
def sendAdvance (p : Params) (draw : Bool) (args : SendArgs) (v : Byte) : SendLine → ProcNext
  | .preArmed n => if v = 0 then .line (.send args .place) else .line (.send args (.preCursor n))
  | .preCursor n =>
    if v = 0 then .line (.send args .place)
    else if waitEnds p (n + 1) draw then preWaitTimeout p args
    else .line (.send args (.preDelay (n + 1)))
  | .preDelay n => .line (.send args (.preArmed n))
  | .place => .line (.send args .clearCursor)
  | .clearCursor => .line (.send args .raiseStrobe)
  | .raiseStrobe => .line (.send args (.poll 0))
  | .poll n =>
    if v ≠ 0 then sendFinish args .success
    else if waitEnds p (n + 1) draw then .line (.send args .report)
    else .line (.send args (.pollDelay (n + 1)))
  | .pollDelay n => .line (.send args (.poll n))
  | .report => sendFinish args .failure
  | .lowerStrobe r => .done (.sent r)

/-- The primitive a line of snapshot_read executes (R110). -/
def snapPrimitive : SnapLine → Instr
  | .firstCheck _ _ => .ldarm
  | .readByte a _ _ => .ldb a
  | .lastCheck _ => .ldarm

/-- The line that reads n more bytes from a; with none left, the second check (R110; log 13). -/
def snapReadFrom (a : Byte) (n : Nat) (got : List Byte) : SnapLine :=
  match n with
  | 0 => .lastCheck got
  | _ + 1 => .readByte a n got

/-- After the last byte of the fixed part, read_packet goes on to the message that the msg_ctl it has read announces
(R110); a plain snapshot has none, and after the message nothing follows. -/
def snapExtra (p : Params) (kind : SnapKind) (read : List Byte) : Nat :=
  match kind with
  | .region => 0
  | .packet =>
    if read.length = packetFixedLength p.packetLayout then
      messageLength (fieldRaw p.packetLayout p.fieldByteOrder read p.packetLayout.msgCtl)
    else 0

/-- Where a line of snapshot_read leads, when its primitive delivered v (R110): the message is read from the layout's
address for it, 0x1D in the reference layout. -/
def snapAdvance (p : Params) (kind : SnapKind) (v : Byte) : SnapLine → ProcNext
  | .firstCheck lo n =>
    if v = 1 then .done (.snapshot kind none) else .line (.snap kind (snapReadFrom lo n []))
  | .readByte a left got =>
    let read := got ++ [v]
    if 1 < left then .line (.snap kind (snapReadFrom (nextAddr a) (left - 1) read))
    else .line (.snap kind (snapReadFrom (BitVec.ofNat 8 p.packetLayout.message) (snapExtra p kind read) read))
  | .lastCheck got => .done (.snapshot kind (if v = 1 then none else some got))

/-- The primitive of a procedure line. -/
def procPrimitive : ProcLine → Instr
  | .send args l => sendPrimitive args l
  | .snap _ l => snapPrimitive l

/-- Where a procedure line leads. -/
def procAdvance (p : Params) (draw : Bool) (v : Byte) : ProcLine → ProcNext
  | .send args l => sendAdvance p draw args v l
  | .snap kind l => snapAdvance p kind v l

/-- REQ_UPDATE_EFFECT on a call that asks for a status update (R148): the arguments and the block it goes on with. The
spec's default changes neither; that another effect would come as the call begins is a DESIGN CHOICE (log 20). -/
def requestUpdate (p : Params) (args : SendArgs) (k : Block) : SendArgs × Block :=
  if args.rsu then p.reqUpdateEffect args k else (args, k)

/-- The first line of a call made at a block (R110, R140); read_packet is a snapshot of the layout's fixed part. -/
def callEntry (p : Params) (k : Block) : Call → ProcLine
  | .send args => .send (requestUpdate p args k).1 (.preArmed 0)
  | .snap lo n => .snap .region (.firstCheck lo n)
  | .readPacket =>
    .snap .packet (.firstCheck (BitVec.ofNat 8 (packetBase p.packetLayout)) (packetFixedLength p.packetLayout))

/-- The block a call goes on with: as it is, but for REQ_UPDATE_EFFECT (R148). -/
def callBlock (p : Params) (k : Block) : Call → Block
  | .send args => (requestUpdate p args k).2
  | .snap _ _ => k
  | .readPacket => k

/-- FG at the place a line leads to. -/
def State.goTo (s : State) : ProcNext → State
  | .line q => s.setFgPos (.proc q)
  | .done r => s.procReturn r

/-- One step of a procedure: the line's primitive through `execWith`, then FG's own move on the value it delivered. -/
def procStep (p : Params) (draw : Bool) (q : ProcLine) (s : State) : Host.Outcome State Fault Refusal :=
  match execWith p (procPrimitive q) s with
  | .next t => .next (t.goTo (procAdvance p draw t.fg.result q))
  | .fault r => .fault r
  | .refused r => .refused r

/-- One FG step: a boot step (R182); a step of the procedure in progress; or, at the loop, the first step of the next
call, and with no call to make, no effect on any state (R3: the Application Loop's own work; log 12). -/
def fgStep (p : Params) (draw : Bool) (s : State) : Host.Outcome State Fault Refusal :=
  match s.fg.pos, s.fg.calls with
  | .boot b, _ => bootStep p b s
  | .proc q, _ => procStep p draw q s
  | .loop, c :: cs =>
    procStep p draw (callEntry p s.block c) ((s.setCalls cs).setBlock (callBlock p s.block c))
  | .loop, [] => .next s

end Sys2Proof.Machine
end

