-- ==== Sys2Proof/Machine/Schedule.lean ====
section
/-! DEFINITION. One element of the interleaving (R5, R48), and the run of a list of them. -/

namespace Sys2Proof.Machine

/-- A word is decoded and executed; an invalid one is refused, which is the run's refusal mark (R66; log 3). -/
def runWord (p : Params) (w : OpWord) (s : State) : Host.Outcome State Fault Refusal :=
  match decodeWord w with
  | .op i => execWith p i s
  | .invalid w' => .refused (.invalidWord w')

/-- One input: an operation word, an FG step, or a TIMER step, which changes nothing (R165). -/
def runInput (p : Params) (x : Input) (s : State) : Host.Outcome State Fault Refusal :=
  match x with
  | .word w => runWord p w s
  | .fg draw => fgStep p draw s
  | .timer => .next s

/-- The next input of the schedule leaves it and runs; with none left the block waits (log 2). -/
def runNext (p : Params) (s : State) : Host.Outcome State Fault Refusal :=
  match s.schedule with
  | [] => .next s
  | x :: rest => runInput p x (s.setSchedule rest)

/-- A list of inputs, one after the other, up to the first refusal (R48). -/
def runInputs (p : Params) : List Input → State → Host.Outcome State Fault Refusal
  | [], s => .next s
  | x :: xs, s =>
    match runInput p x s with
    | .next t => runInputs p xs t
    | .fault r => .fault r
    | .refused r => .refused r

end Sys2Proof.Machine
end

