-- ==== Sys2Proof/Machine/Step.lean ====
section
/-! DEFINITION. The machine's step: one bus event, one foreground primitive or RESET (R5), taken from the schedule. -/

namespace Sys2Proof.Machine

/-- One step (R5, R48), with the spec's parameters. -/
def step (s : State) : Host.Outcome State Fault Refusal := runNext specParams s

/-- s with the operation word w as the next input of its schedule (R60; log 1 and 4). -/
def State.withFetchWord (s : State) (_nbits w : Nat) : State :=
  s.setSchedule (.word (BitVec.ofNat 16 w) :: s.schedule)

end Sys2Proof.Machine
end

