-- ==== Sys2Proof/Machine/Assembler.lean ====
section
/-! DEFINITION. The textual syntax of operations (R67) and the pseudo-operations with their expansions (R68). A line
is a list of characters. What the spec leaves open in the text is in log 18. -/

namespace Sys2Proof.Machine

/-- The mnemonic of an operation (R62). -/
def mnemonicOf : Instr → String
  | .rx _ => "RX"
  | .req => "REQ"
  | .txEnd => "END"
  | .ldb _ => "LDB"
  | .ldcur => "LDCUR"
  | .ldarm => "LDARM"
  | .lderr => "LDERR"
  | .stmb _ => "STMB"
  | .clrcur => "CLRCUR"
  | .stbh => "STBH"
  | .stbl => "STBL"
  | .seterr => "SETERR"
  | .clrerr => "CLRERR"
  | .delay => "DELAY"
  | .reset => "RESET"

/-- The operand byte of an operation that takes one (R61, R67). -/
def operandOf : Instr → Option Byte
  | .rx b => some b
  | .ldb a => some a
  | .stmb d => some d
  | .req => none
  | .txEnd => none
  | .ldcur => none
  | .ldarm => none
  | .lderr => none
  | .clrcur => none
  | .stbh => none
  | .stbl => none
  | .seterr => none
  | .clrerr => none
  | .delay => none
  | .reset => none

/-- The pseudo-operations of R68. -/
inductive PseudoOp where
  | write (a : Byte) (ds : List Byte)
  | ptr (a : Byte)
  | read (n : Nat)
  | send (args : SendArgs)
  | snap (lo : Byte) (n : Nat)
deriving DecidableEq, Repr

/-- What a pseudo-operation expands to: a list of operations, or one procedure call, whose primitive sequence depends
on what its reads observe (R68). -/
inductive Expansion where
  | ops (is : List Instr)
  | call (c : Call)
deriving DecidableEq, Repr

/-- READ and SNAP have n >= 1 (R68, R110). -/
def pseudoAllowed : PseudoOp → Bool
  | .write _ _ => true
  | .ptr _ => true
  | .read n => 1 ≤ n
  | .send _ => true
  | .snap _ n => 1 ≤ n

/-- The expansions of R68. -/
def expandPseudo : PseudoOp → Expansion
  | .write a ds => .ops (.rx a :: ds.map .rx ++ [.txEnd])
  | .ptr a => .ops [.rx a, .txEnd]
  | .read n => .ops (List.replicate n .req ++ [.txEnd])
  | .send args => .call (.send args)
  | .snap lo n => .call (.snap lo n)

/-- A line of a program (R67). -/
inductive AsmLine where
  | blank
  | op (i : Instr)
  | pseudo (p : PseudoOp)
deriving DecidableEq, Repr

/-- The digits of the byte literals, each at the place that is its value. -/
def digits : List Char := "0123456789ABCDEF".toList

/-- The value of a digit to a base: its place among the base's digits. Case does not matter (log 18). -/
def digitValue (base : Nat) (c : Char) : Option Nat := (digits.take base).idxOf? c.toUpper

/-- The digits after n, in decimal. -/
def decimalFrom (n : Nat) : List Char → Option Nat
  | [] => some n
  | c :: cs => (digitValue 10 c).bind (fun d => decimalFrom (10 * n + d) cs)

/-- A natural number in decimal. DESIGN CHOICE (log 18): so, and in no other way, the count of READ and SNAP is written,
and it may be of any size. -/
def naturalLiteral : List Char → Option Nat
  | [] => none
  | c :: cs => decimalFrom 0 (c :: cs)

/-- A byte literal: `0xNN`, or decimal 0 to 255 (R67). -/
def byteLiteral : List Char → Option Byte
  | ['0', 'x', h, l] => (digitValue 16 h).bind (fun x => (digitValue 16 l).map (fun y => BitVec.ofNat 8 (16 * x + y)))
  | cs => (naturalLiteral cs).bind (fun n => if n < 256 then some (BitVec.ofNat 8 n) else none)

/-- The Boolean arguments of SEND (R68). -/
def boolLiteral (cs : List Char) : Option Bool :=
  if cs = "true".toList then some true else if cs = "false".toList then some false else none

/-- What separates the words of a line. -/
def isSeparator (c : Char) : Bool := c == ' ' || c == ',' || c == '\t'

/-- A word in front of a list of words, unless it is empty. -/
def consWord (w : List Char) (ws : List (List Char)) : List (List Char) := if w = [] then ws else w :: ws

/-- The words of a line, after the characters of a word begun. -/
def wordsFrom (begun : List Char) : List Char → List (List Char)
  | [] => consWord begun []
  | c :: cs => if isSeparator c then consWord begun (wordsFrom [] cs) else wordsFrom (begun ++ [c]) cs

/-- The words of a line, its comment left out (R67). -/
def lineWords (line : List Char) : List (List Char) := wordsFrom [] (line.takeWhile (fun c => c != ';'))

/-- The agent prefix is documentation only (R67). -/
def dropPrefix : List (List Char) → List (List Char)
  | [] => []
  | w :: ws => if w = "host:".toList ∨ w = "fg:".toList then ws else w :: ws

/-- The operation of a mnemonic without operand (R67). -/
def bareOperation (m : List Char) : Option Instr :=
  [Instr.req, .txEnd, .ldcur, .ldarm, .lderr, .clrcur, .stbh, .stbl, .seterr, .clrerr, .delay, .reset].find?
    (fun i => (mnemonicOf i).toList = m)

/-- The operation of a mnemonic with its operand (R67). -/
def operandOperation (m : List Char) (v : Byte) : Option Instr :=
  [Instr.rx v, .ldb v, .stmb v].find? (fun i => (mnemonicOf i).toList = m)

/-- The pseudo-operation of a mnemonic with its arguments (R68). -/
def pseudoOperation (m : List Char) (args : List (List Char)) : Option PseudoOp :=
  if m = "WRITE".toList then
    match args.mapM byteLiteral with
    | some (a :: ds) => some (.write a ds)
    | _ => none
  else if m = "PTR".toList then
    match args with
    | [a] => (byteLiteral a).map .ptr
    | _ => none
  else if m = "READ".toList then
    match args with
    | [n] => (naturalLiteral n).map .read
    | _ => none
  else if m = "SEND".toList then
    match args with
    | [b, clr, rsu] =>
      (byteLiteral b).bind (fun x => (boolLiteral clr).bind (fun y => (boolLiteral rsu).map (fun z =>
        .send ⟨x, y, z⟩)))
    | _ => none
  else if m = "SNAP".toList then
    match args with
    | [lo, n] => (byteLiteral lo).bind (fun x => (naturalLiteral n).map (fun k => .snap x k))
    | _ => none
  else none

/-- A pseudo-operation whose counts the spec allows (R68). -/
def allowedPseudo (m : List Char) (args : List (List Char)) : Option PseudoOp :=
  (pseudoOperation m args).filter pseudoAllowed

/-- One line of a program (R67, R68), or none where the text is not in the syntax. DESIGN CHOICE (log 18): a line is
blank where nothing, only a comment, or only an agent prefix stands in it. -/
def assembleLine (line : List Char) : Option AsmLine :=
  match dropPrefix (lineWords line) with
  | [] => some .blank
  | [m] => (bareOperation m).map .op
  | m :: v :: vs =>
    match vs, operandOperation m 0 with
    | [], some _ => ((byteLiteral v).bind (operandOperation m)).map .op
    | _, _ => (allowedPseudo m (v :: vs)).map .pseudo

/-- A hexadecimal digit. -/
def hexDigit (n : Nat) : Char := digits.getD n '0'

/-- `0xNN`. -/
def byteText (b : Byte) : List Char := ['0', 'x', hexDigit (b.toNat / 16), hexDigit (b.toNat % 16)]

/-- The line of an operation (R67). -/
def instrText (i : Instr) : List Char :=
  match operandOf i with
  | some v => (mnemonicOf i).toList ++ ' ' :: byteText v
  | none => (mnemonicOf i).toList

end Sys2Proof.Machine
end

