-- ==== Sys2Proof/Machine/Framing.lean ====
section
/-! DEFINITION. The I2C framing that produces the bus events (R69 to R73), and the sequences of events a real bus can
produce (R74). The bus controller is outside the block (R171): the machine admits every sequence of events (R75), and
this file is for claims about real buses. The framing is the spec's general knowledge (G1 to G3; log 17). -/

namespace Sys2Proof.Machine

/-- What happens on the bus (R70). A START inside a transfer is a repeated START. -/
inductive BusActivity where
  | start
  /-- The slave-address byte `a ++ RW`; RW = 1 is a read. -/
  | address (a : BitVec 7) (read : Bool)
  /-- HOST writes a data byte. -/
  | hostWrites (b : Byte)
  /-- HOST clocks a read byte and acknowledges it or not (R72). -/
  | hostReads (ack : Bool)
  | stop
deriving DecidableEq, Repr

/-- Where the bus stands: no transfer, after a START, in a transfer addressed to this block, or in one that is not. -/
inductive FrameState where
  | free
  | started
  | writing
  | reading
  | foreign
deriving DecidableEq, Repr

/-- A transfer addressed to this block is open. -/
def addressedHere : FrameState → Bool
  | .writing => true
  | .reading => true
  | .free => false
  | .started => false
  | .foreign => false

/-- The END that a STOP or a repeated START gives a transfer addressed to this block (R71). -/
def endOf (f : FrameState) : List Instr := if addressedHere f then [.txEnd] else []

/-- The bus events of one activity, and where the bus stands after it (R71). -/
def frameStep (own : BitVec 7) (f : FrameState) : BusActivity → FrameState × List Instr
  | .start => (.started, endOf f)
  | .address a read =>
    match f with
    | .started => (if a = own then (if read then .reading else .writing) else .foreign, [])
    | _ => (f, [])
  | .hostWrites b => (f, if f = .writing then [.rx b] else [])
  | .hostReads _ => (f, if f = .reading then [.req] else [])
  | .stop => (.free, endOf f)

/-- The block acknowledges its own address and every data byte HOST writes to it (R72). -/
def blockAcks (own : BitVec 7) (f : FrameState) : BusActivity → Bool
  | .start => false
  | .address a _ => f == .started && a == own
  | .hostWrites _ => f == .writing
  | .hostReads _ => false
  | .stop => false

/-- The bus events of a list of activities (R71). -/
def frameEvents (own : BitVec 7) (f : FrameState) : List BusActivity → List Instr
  | [] => []
  | x :: xs => (frameStep own f x).2 ++ frameEvents own (frameStep own f x).1 xs

/-- The bus events that a block with the I2C_ADDR of given parameters sees, from a free bus on (R70, R71). -/
def busEvents (p : Params) (xs : List BusActivity) : List Instr := frameEvents p.i2cAddr .free xs

/-- Where the bus stands after a list of activities. -/
def frameAfter (own : BitVec 7) (f : FrameState) : List BusActivity → FrameState
  | [] => f
  | x :: xs => frameAfter own (frameStep own f x).1 xs

/-- One transaction of the grammar `Txn ::= RX+ END | REQ+ END | END` (R74). -/
inductive Txn where
  | write (b : Byte) (bs : List Byte)
  | read (more : Nat)
  | addressOnly
deriving DecidableEq, Repr

/-- The events of a transaction (R74). -/
def txnEvents : Txn → List Instr
  | .write b bs => .rx b :: bs.map .rx ++ [.txEnd]
  | .read more => List.replicate (more + 1) .req ++ [.txEnd]
  | .addressOnly => [.txEnd]

/-- `i2c_legal(events)`: a sequence of whole transactions (R74, R75). DESIGN CHOICE (log 23): R74 speaks of the events up
to and including an END, and a sequence whose last transaction has no END yet is not legal here. DESIGN CHOICE (log 25): two ENDs in a row are legal
here, as two transactions of the grammar's third form, although R75 names them among what the grammar excludes. -/
def I2cLegal (es : List Instr) : Prop := ∃ ts : List Txn, es = ts.flatMap txnEvents

/-- Where an event sequence stands in the grammar. -/
inductive TxnState where
  | boundary
  | inWrite
  | inRead
deriving DecidableEq, Repr

/-- The next place in the grammar, if the grammar has one. DESIGN CHOICE (log 25): an END at a boundary is an address-only
transaction, after another END too. -/
def txnStep : TxnState → Instr → Option TxnState
  | _, .txEnd => some .boundary
  | .boundary, .rx _ => some .inWrite
  | .inWrite, .rx _ => some .inWrite
  | .boundary, .req => some .inRead
  | .inRead, .req => some .inRead
  | _, _ => none

/-- The place after a list of events. -/
def txnAfter (t : TxnState) : List Instr → Option TxnState
  | [] => some t
  | e :: es => (txnStep t e).bind (fun u => txnAfter u es)

/-- The grammar of R74 as a check, with the same choices for a transaction that has no END yet (log 23)
and for two ENDs in a row (log 25). -/
def i2cLegalCheck (es : List Instr) : Bool := txnAfter .boundary es == some .boundary

end Sys2Proof.Machine
end

