-- ==== Sys2Proof/Safety.lean ====
section
/-! DEFINITION. The terms claims use: the launch premise, the invariants, what stays the same, and the shapes of an
interleaving. -/

namespace Sys2Proof.Safety

open Sys2Proof.Machine

/-- `clean_entry(S)` (R183): the reset values of R33, FG at its loop start, an empty event history. That no refusal
mark is set is that the state was reached at all (log 3). -/
def CleanEntry (s : State) : Prop :=
  (∀ a : Byte, s.block.readByte a = 0) ∧ s.block.cursor = 0 ∧ s.block.armed = false ∧ s.block.phase = .idle ∧
    s.block.strobe = false ∧ s.block.cmdError = false ∧ s.fg.pos = .loop ∧ s.events = []

/-- The region keeps its canonical form, and the ghost phase is IDLE exactly while armed is 0 (R29). -/
def BlockInv (s : State) : Prop := s.block.bytes.wf ∧ (s.block.phase = .idle ↔ s.block.armed = false)

/-- The failing polls a line of send_command has counted stay below MAX_POLLS (R141). -/
def SendCountersBounded (p : Params) : SendLine → Prop
  | .preArmed n => n < p.maxPolls
  | .preCursor n => n < p.maxPolls
  | .preDelay n => n < p.maxPolls
  | .poll n => n < p.maxPolls
  | .pollDelay n => n < p.maxPolls
  | .place => True
  | .clearCursor => True
  | .raiseStrobe => True
  | .report => True
  | .lowerStrobe _ => True

/-- The same for FG, wherever it stands. -/
def PollCountersBounded (p : Params) (s : State) : Prop :=
  ∀ args l, s.fg.pos = .proc (.send args l) → SendCountersBounded p l

/-- REQ_UPDATE_EFFECT is the spec's default, no effect (R148, D13). -/
def NoUpdateEffect (p : Params) : Prop := ∀ args k, p.reqUpdateEffect args k = (args, k)

/-- Every region byte reads the same. -/
def SameBytes (k k' : Block) : Prop := ∀ a : Byte, k'.readByte a = k.readByte a

/-- Every region byte but one reads the same. -/
def SameBytesBut (x : Byte) (k k' : Block) : Prop := ∀ a : Byte, a ≠ x → k'.readByte a = k.readByte a

/-- Everything beside the block is the same but what HOST was driven. -/
def SameAgents (s t : State) : Prop := t.fg = s.fg ∧ t.events = s.events ∧ t.schedule = s.schedule

/-- Everything in the block is the same. -/
def SameBlock (k k' : Block) : Prop :=
  SameBytes k k' ∧ k'.cursor = k.cursor ∧ k'.armed = k.armed ∧ k'.strobe = k.strobe ∧ k'.cmdError = k.cmdError ∧
    k'.phase = k.phase

/-- A field of one byte without sign (R114). -/
def byteField (b : Byte) : FieldValue := ⟨b.toNat, .unsigned b.toNat⟩

/-- A binary32 field with a given raw number (R114, R115). -/
def floatField (raw : Nat) : FieldValue := ⟨raw, .binary32 (binary32 (BitVec.ofNat 32 raw))⟩

/-- The operations of a list, one after the other, with nothing in between. -/
def execAll : List Instr → State → Host.Outcome State Fault Refusal
  | [], s => .next s
  | i :: is, s =>
    match exec i s with
    | .next t => execAll is t
    | .fault r => .fault r
    | .refused r => .refused r

/-- How many FG steps a list of inputs has. -/
def fgTurns : List Input → Nat
  | [] => 0
  | .fg _ :: xs => fgTurns xs + 1
  | .word _ :: xs => fgTurns xs
  | .timer :: xs => fgTurns xs

/-- Every word of the list spells an operation, and none is RESET (which would abandon the procedure, R180). -/
def NoReset (l : List Input) : Prop :=
  ∀ w, Input.word w ∈ l → ∃ i, decodeWord w = .op i ∧ i ≠ .reset

/-- A call with its request_status_update taken away (R148). -/
def dropRsuCall : Call → Call
  | .send a => .send { a with rsu := false }
  | .snap lo n => .snap lo n
  | .readPacket => .readPacket

/-- A position with the argument request_status_update taken away. -/
def dropRsuPos : FgPos → FgPos
  | .proc (.send a l) => .proc (.send { a with rsu := false } l)
  | .proc (.snap k l) => .proc (.snap k l)
  | .boot b => .boot b
  | .loop => .loop

/-- The state with every request_status_update argument false (R148). -/
def dropRsu (s : State) : State :=
  { s with fg := { s.fg with pos := dropRsuPos s.fg.pos, calls := s.fg.calls.map dropRsuCall } }

/-- The state with another ghost phase (R29). -/
def withPhase (q : Phase) (s : State) : State := s.setBlock (s.block.setPhase q)

/-- The two outcomes stop for the same reason, or both go on with states that a function makes equal. -/
def OutcomesAgree (f : State → State) : Host.Outcome State Fault Refusal → Host.Outcome State Fault Refusal → Prop
  | .next t, .next t' => f t = f t'
  | .fault r, .fault r' => r = r'
  | .refused r, .refused r' => r = r'
  | _, _ => False

end Sys2Proof.Safety
end

