-- ==== Sys2Proof/Certificates/Slice0/Obligations.lean ====
section
/-! DEFINITION. The statements for the provers. Each docstring names the rules it formalises. -/

open Sys2Proof Sys2Proof.Machine Sys2Proof.Safety

/-! ### Encoding -/

/-- Decoding the word of an operation gives the operation back, with every operand byte (R60 to R62). -/
def Obligations.DecodeOfEncodeIsIdentity : Prop :=
  ∀ i : Instr, decodeWord (encode i) = .op i

/-- A word that spells an operation is the word the encoder writes: no bit of it is dropped (R60 to R63). -/
def Obligations.EncodeOfDecodeIsIdentity : Prop :=
  ∀ (w : OpWord) (i : Instr), decodeWord w = .op i → encode i = w

/-- The totality that 30_encoding.md section 3 infers, over the rows of its opcode map: a word selects no row and is
`Invalid(word)`, or selects one row and no other and decodes to that row's operation with operand word[7:0]. -/
def Obligations.EveryWordIsOneRowOrInvalid : Prop :=
  ∀ w : OpWord,
    match opcodeMap.filter (fun r => rowSelects r w) with
    | [] => decodeWord w = .invalid w
    | [r] => decodeWord w = .op (r.build (w.extractLsb' 0 8))
    | _ => False

/-- R63 and R64: the words that spell no operation are the reserved ones and the operand-less ones whose imm8 is
not zero. -/
def Obligations.ReservedWordsAreInvalid : Prop :=
  ∀ (w : OpWord) (cls op imm : Nat),
    cls = w.toNat / 4096 → op = w.toNat / 256 % 16 → imm = w.toNat % 256 →
    (decodeWord w = .invalid w ↔
      cls = 0 ∨ (4 ≤ cls ∧ cls ≤ 14) ∨ (cls = 1 ∧ 3 ≤ op) ∨ (cls = 2 ∧ 4 ≤ op) ∨ (cls = 3 ∧ 7 ≤ op) ∨
        (cls = 15 ∧ (op ≠ 0 ∨ imm ≠ 0)) ∨
        (imm ≠ 0 ∧ ((cls = 1 ∧ 1 ≤ op) ∨ (cls = 2 ∧ 1 ≤ op) ∨ (cls = 3 ∧ 1 ≤ op))))

/-- Words written out from the encoding, one of each class and three invalid ones (95, section 3.8). -/
def Obligations.WrittenOutWordsDecode : Prop :=
  decodeWord 0b0001000000000010 = .op (.rx 0x02) ∧ decodeWord 0b0001000100000000 = .op .req ∧
    decodeWord 0b0010000010101011 = .op (.ldb 0xAB) ∧ decodeWord 0b0011000011111111 = .op (.stmb 0xFF) ∧
    decodeWord 0b0011011000000000 = .op .delay ∧ decodeWord 0b1111000000000000 = .op .reset ∧
    decodeWord 0x1101 = .invalid 0x1101 ∧ decodeWord 0x3700 = .invalid 0x3700 ∧
    decodeWord 0xF100 = .invalid 0xF100

/-- The line the model prints for an operation assembles to it (R67). -/
def Obligations.AssembledTextReadsBack : Prop :=
  ∀ i : Instr, assembleLine (instrText i) = some (.op i)

/-! ### The step -/

/-- The next word of the schedule is decoded and executed, and leaves the schedule. -/
def Obligations.StepRunsDecodedOperation : Prop :=
  ∀ (s : State) (w : OpWord) (rest : List Input) (i : Instr),
    s.schedule = .word w :: rest → decodeWord w = .op i → step s = exec i (s.setSchedule rest)

/-- An FG turn of the schedule is one FG step with its draw; a TIMER step changes nothing but the schedule (R165); an
empty schedule changes nothing (the model's choice, log 2). -/
def Obligations.StepRunsForegroundTimerAndWaits : Prop :=
  (∀ (s : State) (draw : Bool) (rest : List Input),
      s.schedule = .fg draw :: rest → step s = fgStep specParams draw (s.setSchedule rest)) ∧
    (∀ (s : State) (rest : List Input),
      s.schedule = .timer :: rest → step s = .next (s.setSchedule rest)) ∧
    (∀ s : State, s.schedule = [] → step s = .next s)

/-- R66, R160 and I26: a step on a word that spells no operation is refused; it stops on nothing else; in every other
state there is a next state. That the refusal mark is the outcome is the model's reading (log 3). -/
def Obligations.StepStopsOnlyOnInvalidWord : Prop :=
  (∀ (s : State) (w : OpWord) (rest : List Input),
    s.schedule = .word w :: rest → decodeWord w = .invalid w → step s = .refused (.invalidWord w)) ∧
  ∀ s : State,
    ((∃ w rest, s.schedule = .word w :: rest ∧ decodeWord w = .invalid w ∧
        step s = .refused (.invalidWord w)) ∨ ∃ t, step s = .next t) ∧
    ∀ r, step s = .refused r →
      ∃ w rest, s.schedule = .word w :: rest ∧ decodeWord w = .invalid w ∧ r = .invalidWord w

/-! ### The bus events -/

/-- R100 in the address phase of RX (R80, R81): the tag 0x02 selects offset 1, any other byte is taken literally as the
address; the byte is stored nowhere. Completion and frame. -/
def Obligations.RxAddressPhaseSetsCursor : Prop :=
  ∀ (b : Byte) (s : State), s.block.armed = false →
    ∃ t, exec (.rx b) s = .next t ∧
      t.block.cursor = (if b = 0x02 then 1 else b) ∧ t.block.armed = true ∧
      t.block.phase = .addressing ∧ SameBytes s.block t.block ∧ t.block.strobe = s.block.strobe ∧
      t.block.cmdError = s.block.cmdError ∧ SameAgents s t ∧ t.driven = s.driven

/-- R82: the data phase of RX stores at the cursor, and advances it mod 256; no other bus event
writes the region. Completion and frame. -/
def Obligations.RxDataPhaseStoresAtCursor : Prop :=
  (∀ (b : Byte) (s : State), s.block.armed = true →
    ∃ t, exec (.rx b) s = .next t ∧
      t.block.readByte s.block.cursor = b ∧ SameBytesBut s.block.cursor s.block t.block ∧
      t.block.cursor.toNat = (s.block.cursor.toNat + 1) % 256 ∧ t.block.armed = true ∧
      t.block.phase = .streaming ∧ t.block.strobe = s.block.strobe ∧ t.block.cmdError = s.block.cmdError ∧
      SameAgents s t ∧ t.driven = s.driven) ∧
    ∀ (i : Instr) (s t : State), agentOf i = .busEvent → exec i s = .next t → ¬ SameBytes s.block t.block →
      ∃ b, i = .rx b ∧ s.block.armed = true

/-- R84: the word of REQ; REQ drives `bytes[cursor]` to HOST and advances the cursor, armed or not. Completion and
frame. -/
def Obligations.ReqDrivesByteAtCursor : Prop :=
  decodeWord 0x1100 = .op .req ∧ ∀ s : State,
    ∃ t, exec .req s = .next t ∧
      t.driven = s.driven ++ [s.block.readByte s.block.cursor] ∧
      t.block.cursor.toNat = (s.block.cursor.toNat + 1) % 256 ∧
      t.block.phase = (if s.block.phase = .addressing then .streaming else s.block.phase) ∧
      t.block.armed = s.block.armed ∧ SameBytes s.block t.block ∧ t.block.strobe = s.block.strobe ∧
      t.block.cmdError = s.block.cmdError ∧ SameAgents s t

/-- R86: the word of END; END disarms and keeps the cursor, and the RX after it is an address phase. Completion and
frame. -/
def Obligations.EndDisarmsAndKeepsCursor : Prop :=
  decodeWord 0x1200 = .op .txEnd ∧ ∀ s : State,
    ∃ t, exec .txEnd s = .next t ∧
      t.block.armed = false ∧ t.block.phase = .idle ∧ t.block.cursor = s.block.cursor ∧
      SameBytes s.block t.block ∧ t.block.strobe = s.block.strobe ∧ t.block.cmdError = s.block.cmdError ∧
      SameAgents s t ∧ t.driven = s.driven ∧
      ∀ b, ∃ u, exec (.rx b) t = .next u ∧ u.block.cursor = addrDecode b ∧ SameBytes t.block u.block

/-- R88 and R89: every bus event has a next state, and it touches neither strobe nor cmd_error nor anything of FG nor
the event history. -/
def Obligations.BusEventsAreTotalAndLeaveForeground : Prop :=
  ∀ (i : Instr) (s : State), agentOf i = .busEvent →
    ∃ t, exec i s = .next t ∧ (∀ o, exec i s = o → o = .next t) ∧
      t.block.strobe = s.block.strobe ∧ t.block.cmdError = s.block.cmdError ∧ t.fg = s.fg ∧
      t.events = s.events

/-- R7 and R8: what the operations take from the parameters, at every value of them. The address phase decodes by
VERSION_TAG, the data phase does not; RESET leaves the strobe at STROBE_RESET_LEVEL; no other operation depends on a
parameter, and with the spec's two values none does. -/
def Obligations.OperationsUnderEveryParameter : Prop :=
  ∀ (p : Params) (s : State),
    (∀ b : Byte, s.block.armed = false →
      ∃ t, execWith p (.rx b) s = .next t ∧ t.block.cursor = (if b = p.versionTag then 1 else b) ∧
        t.block.armed = true ∧ t.block.phase = .addressing ∧ SameBytes s.block t.block ∧
        t.block.strobe = s.block.strobe ∧ t.block.cmdError = s.block.cmdError ∧ SameAgents s t ∧
        t.driven = s.driven) ∧
    (∀ b : Byte, s.block.armed = true → execWith p (.rx b) s = exec (.rx b) s) ∧
    (∃ t, execWith p .reset s = .next t ∧ t.block = State.reset.block.setStrobe p.strobeResetLevel ∧
      t.events = s.events) ∧
    (∀ i : Instr, (∀ b, i ≠ .rx b) → i ≠ .reset → execWith p i s = exec i s) ∧
    (p.versionTag = 0x02 → p.strobeResetLevel = false → ∀ i : Instr, execWith p i s = exec i s)

/-! ### The foreground primitives -/

/-- R103 to R106: the words of the foreground reads; each delivers its value to FG and writes no state of the block.
Completion and frame. -/
def Obligations.ForegroundReadsDeliverTheirValue : Prop :=
  (∀ w : OpWord, w &&& 0xFF00 = 0x2000 → decodeWord w = .op (.ldb (w.extractLsb' 0 8))) ∧
  decodeWord 0x2100 = .op .ldcur ∧ decodeWord 0x2200 = .op .ldarm ∧ decodeWord 0x2300 = .op .lderr ∧
  ∀ (i : Instr) (v : Byte) (s : State),
    ((∃ a, i = .ldb a ∧ v = s.block.readByte a) ∨ (i = .ldcur ∧ v = s.block.cursor) ∨
      (i = .ldarm ∧ v = (if s.block.armed then 1 else 0)) ∨
      (i = .lderr ∧ v = (if s.block.cmdError then 1 else 0))) →
    ∃ t, exec i s = .next t ∧ t.fg.result = v ∧ SameBlock s.block t.block ∧ t.fg.pos = s.fg.pos ∧
      t.fg.calls = s.fg.calls ∧ t.fg.returns = s.fg.returns ∧ t.events = s.events ∧ t.driven = s.driven ∧
      t.schedule = s.schedule

/-- R130: the word of STMB; STMB writes bytes[0], whatever it held, and nothing else. Completion and frame. -/
def Obligations.StmbWritesOnlyTheMailbox : Prop :=
  (∀ w : OpWord, w &&& 0xFF00 = 0x3000 → decodeWord w = .op (.stmb (w.extractLsb' 0 8))) ∧
  ∀ (d : Byte) (s : State),
    ∃ t, exec (.stmb d) s = .next t ∧
      t.block.readByte 0 = d ∧ SameBytesBut 0 s.block t.block ∧ t.block.cursor = s.block.cursor ∧
      t.block.armed = s.block.armed ∧ t.block.phase = s.block.phase ∧ t.block.strobe = s.block.strobe ∧
      t.block.cmdError = s.block.cmdError ∧ SameAgents s t ∧ t.driven = s.driven

/-- R131: the word of CLRCUR; CLRCUR writes 0 to the cursor and nothing else, the next data byte of an open write
lands at bytes[0], and no other foreground operation writes the cursor. Completion and frame. -/
def Obligations.ClrcurRedirectsAnOpenWrite : Prop :=
  decodeWord 0x3100 = .op .clrcur ∧
  (∀ (i : Instr) (s t : State), agentOf i = .fgRead ∨ agentOf i = .fgWrite → exec i s = .next t →
    t.block.cursor ≠ s.block.cursor → i = .clrcur) ∧
  ∀ s : State,
    ∃ t, exec .clrcur s = .next t ∧
      t.block.cursor = 0 ∧ SameBytes s.block t.block ∧ t.block.armed = s.block.armed ∧
      t.block.phase = s.block.phase ∧ t.block.strobe = s.block.strobe ∧ t.block.cmdError = s.block.cmdError ∧
      SameAgents s t ∧ t.driven = s.driven ∧
      (s.block.armed = true → ∀ b, ∃ u, exec (.rx b) t = .next u ∧ u.block.readByte 0 = b ∧ u.block.cursor = 1 ∧
        SameBytesBut 0 t.block u.block)

/-- R132 and R133: the words of STBH and STBL; they write the strobe and nothing else; the step is a rising edge
exactly when STBH finds the strobe at 0. Completion and frame. -/
def Obligations.StrobeOperationsSetTheLine : Prop :=
  decodeWord 0x3200 = .op .stbh ∧ decodeWord 0x3300 = .op .stbl ∧
  ∀ (i : Instr) (level : Bool) (s : State), ((i = .stbh ∧ level = true) ∨ (i = .stbl ∧ level = false)) →
    ∃ t, exec i s = .next t ∧ t.block.strobe = level ∧
      (risingEdge s.block t.block = true ↔ level = true ∧ s.block.strobe = false) ∧ SameBytes s.block t.block ∧
      t.block.cursor = s.block.cursor ∧ t.block.armed = s.block.armed ∧ t.block.phase = s.block.phase ∧
      t.block.cmdError = s.block.cmdError ∧ SameAgents s t ∧ t.driven = s.driven

/-- R134 and R135: the words of SETERR and CLRERR; SETERR sets the flag and records CMD_TIMEOUT each time; CLRERR
clears the flag, and of all operations only it and RESET do. Completion and frame. -/
def Obligations.CommandErrorOperations : Prop :=
  decodeWord 0x3400 = .op .seterr ∧ decodeWord 0x3500 = .op .clrerr ∧
  (∀ s : State,
    ∃ t, exec .clrerr s = .next t ∧
      t.block.cmdError = false ∧ SameBytes s.block t.block ∧ t.block.cursor = s.block.cursor ∧
      t.block.armed = s.block.armed ∧ t.block.phase = s.block.phase ∧ t.block.strobe = s.block.strobe ∧
      SameAgents s t ∧ t.driven = s.driven) ∧
  (∀ (i : Instr) (s t : State), exec i s = .next t → s.block.cmdError = true → t.block.cmdError = false →
    i = .clrerr ∨ i = .reset) ∧
  ∀ s : State,
    ∃ t, exec .seterr s = .next t ∧
      t.block.cmdError = true ∧ t.events = s.events ++ [.cmdTimeout] ∧ eventCode .cmdTimeout = 0x01 ∧
      SameBytes s.block t.block ∧ t.block.cursor = s.block.cursor ∧ t.block.armed = s.block.armed ∧
      t.block.phase = s.block.phase ∧ t.block.strobe = s.block.strobe ∧ t.fg = s.fg ∧ t.driven = s.driven ∧
      t.schedule = s.schedule

/-- R136: the word of DELAY; DELAY leaves S, and everything else, unchanged. Completion and frame. -/
def Obligations.DelayLeavesEverything : Prop :=
  decodeWord 0x3600 = .op .delay ∧
  ∀ s : State, ∃ t, exec .delay s = .next t ∧ SameBlock s.block t.block ∧ SameAgents s t ∧ t.driven = s.driven

/-- R180: the word of RESET; RESET from any state gives the values of R33, no procedure stays in progress, and no event
is raised; the next RX is an address phase and the next REQ is driven 0x00. That FG stands at boot step 2 after it is
the model's reading (log 7). Completion; its frame beside S is in BootAfterResetReachesTheLoop. -/
def Obligations.ResetRestoresEveryField : Prop :=
  decodeWord 0xF000 = .op .reset ∧ ∀ s : State,
    ∃ t, exec .reset s = .next t ∧
      (∀ a : Byte, t.block.readByte a = 0) ∧ t.block.cursor = 0 ∧ t.block.armed = false ∧
      t.block.phase = .idle ∧ t.block.strobe = Config.strobeResetLevel ∧ t.block.cmdError = false ∧
      t.block = State.reset.block ∧ t.fg.pos = .boot .driveStrobe ∧ t.events = s.events ∧
      (∀ b, ∃ u, exec (.rx b) t = .next u ∧ u.block.cursor = addrDecode b ∧ SameBytes t.block u.block) ∧
      ∃ u, exec .req t = .next u ∧ u.driven = t.driven ++ [0x00]

/-- RESET leaves FG's calls, returns and last read value, what HOST was driven and the schedule (the model's reading,
log 6). After it four FG steps, whatever their draws, bring FG through the boot of 70_reset_and_hazards.md to its loop,
with the block of the reset state and the strobe at STROBE_RESET_LEVEL, whatever that is: that RESET is the first boot
step is the model's reading too (log 7). -/
def Obligations.BootAfterResetReachesTheLoop : Prop :=
  ∀ (p : Params) (d1 d2 d3 d4 : Bool) (s : State),
    (∃ t, execWith p .reset s = .next t ∧ t.fg.returns = s.fg.returns ∧ t.fg.calls = s.fg.calls ∧
      t.fg.result = s.fg.result ∧ t.driven = s.driven ∧ t.schedule = s.schedule) ∧
    ∃ t, runInputs p [.word 0xF000, .fg d1, .fg d2, .fg d3, .fg d4] s = .next t ∧
      t.fg.pos = .loop ∧ t.block = State.reset.block.setStrobe p.strobeResetLevel ∧ t.events = s.events ∧
      t.driven = s.driven

/-! ### Whole-machine rules -/

/-- R33 and R183: the reset state is a clean entry. -/
def Obligations.ResetStateIsCleanEntry : Prop :=
  CleanEntry State.reset

/-- The invariants hold at reset. -/
def Obligations.InvariantsHoldAtReset : Prop :=
  BlockInv State.reset ∧ PollCountersBounded specParams State.reset

/-- Every step keeps the region's canonical form, and phase = IDLE if and only if armed = 0 (R29). -/
def Obligations.StepKeepsRegionFormAndPhase : Prop :=
  ∀ s t : State, BlockInv s → step s = .next t → BlockInv t

/-- Every step keeps the failing polls a wait has counted below MAX_POLLS (R141). -/
def Obligations.StepKeepsPollCountersBounded : Prop :=
  ∀ s t : State, PollCountersBounded specParams s → step s = .next t → PollCountersBounded specParams t

/-- R31, the whole table: which operation can have changed each piece of state, and to what. -/
def Obligations.OnlyTheNamedWritersWrite : Prop :=
  ∀ (i : Instr) (s t : State), exec i s = .next t →
    (∀ a : Byte, a ≠ 0 → t.block.readByte a ≠ s.block.readByte a →
      (∃ b, i = .rx b ∧ s.block.armed = true ∧ s.block.cursor = a) ∨ (i = .reset ∧ t.block.readByte a = 0)) ∧
    (t.block.readByte 0 ≠ s.block.readByte 0 →
      (∃ b, i = .rx b ∧ s.block.armed = true ∧ s.block.cursor = 0) ∨ (∃ d, i = .stmb d) ∨
        (i = .reset ∧ t.block.readByte 0 = 0)) ∧
    (t.block.cursor ≠ s.block.cursor →
      (∃ b, i = .rx b) ∨ i = .req ∨ ((i = .clrcur ∨ i = .reset) ∧ t.block.cursor = 0)) ∧
    (t.block.armed ≠ s.block.armed →
      (∃ b, i = .rx b ∧ s.block.armed = false ∧ t.block.armed = true) ∨
        ((i = .txEnd ∨ i = .reset) ∧ t.block.armed = false)) ∧
    (t.block.strobe ≠ s.block.strobe → i = .stbh ∨ i = .stbl ∨ (i = .reset ∧ t.block.strobe = false)) ∧
    (t.block.cmdError ≠ s.block.cmdError →
      i = .seterr ∨ i = .clrerr ∨ (i = .reset ∧ t.block.cmdError = false))

/-- The whole transition table of 10_state.md section 3, rows the spec infers among them, for every operation: with
phase = IDLE exactly while armed = 0 before it. -/
def Obligations.PhaseFollowsTheTable : Prop :=
  ∀ (i : Instr) (s : State), (s.block.phase = .idle ↔ s.block.armed = false) →
    ∃ t, exec i s = .next t ∧
      t.block.phase =
        match s.block.phase, i with
        | .idle, .rx _ => .addressing
        | .idle, .req => .idle
        | .idle, .txEnd => .idle
        | .addressing, .rx _ => .streaming
        | .addressing, .req => .streaming
        | .addressing, .txEnd => .idle
        | .streaming, .rx _ => .streaming
        | .streaming, .req => .streaming
        | .streaming, .txEnd => .idle
        | _, .reset => .idle
        | ph, _ => ph

/-- R29: the phase is a ghost: with another phase at the start, a step does the same to everything but the phase. -/
def Obligations.PhaseInfluencesNothingElse : Prop :=
  ∀ (s : State) (q : Phase), OutcomesAgree (withPhase .idle) (step s) (step (withPhase q s))

/-- R26, R161 and R163 over steps: a step clears cmd_error only by CLRERR or RESET, so that no foreground procedure, a
successful send_command among them, clears it; and a step leaves the event history, or adds one CMD_TIMEOUT to it
with cmd_error at 1 after the step. -/
def Obligations.CommandErrorStaysUntilCleared : Prop :=
  ∀ s t : State, step s = .next t →
    (s.block.cmdError = true → t.block.cmdError = false →
      ∃ w rest, s.schedule = .word w :: rest ∧ (decodeWord w = .op .clrerr ∨ decodeWord w = .op .reset)) ∧
    (t.events = s.events ∨ (t.events = s.events ++ [.cmdTimeout] ∧ t.block.cmdError = true))

/-- R46, on block state: the foreground reads have no effect on it, and a second identical foreground write changes
nothing further; two REQ in a row drive two successive bytes. -/
def Obligations.ForegroundOperationsAreIdempotent : Prop :=
  (∀ (i : Instr) (s : State), agentOf i = .fgRead ∨ agentOf i = .fgWrite →
    ∃ t u, exec i s = .next t ∧ exec i t = .next u ∧ SameBlock t.block u.block ∧ u.fg.result = t.fg.result ∧
      (agentOf i = .fgRead → SameBlock s.block t.block)) ∧
  ∀ s : State, ∃ t u, exec .req s = .next t ∧ exec .req t = .next u ∧
    u.driven = s.driven ++ [s.block.readByte s.block.cursor, s.block.readByte (s.block.cursor + 1)]

/-- The canonical form is canonical: two such regions that read the same are the same list. -/
def Obligations.CanonicalRegionsAreEqualWhenTheyReadEqual : Prop :=
  ∀ m m' : Memory, m.wf → m'.wf → (∀ a : Byte, m.read a.toNat = m'.read a.toNat) → m = m'

/-! ### The cursor's walk -/

/-- R90 and R42 for RX, with R83 (f) and (g): N data bytes from cursor c land at c, c + 1, ... mod 256, the last one to
reach an address stays, every address not reached is as before, and the cursor ends at c + N mod 256. -/
def Obligations.DataBytesWalkTheRegion : Prop :=
  ∀ (s : State) (ds : List Byte), s.block.armed = true →
    ∃ t, execAll (ds.map .rx) s = .next t ∧
      t.block.cursor.toNat = (s.block.cursor.toNat + ds.length) % 256 ∧ t.block.armed = true ∧
      (∀ (k : Nat) (d : Byte), ds[k]? = some d → ds.length ≤ k + 256 →
        t.block.readByte (BitVec.ofNat 8 (s.block.cursor.toNat + k)) = d) ∧
      (∀ a : Byte, (∀ k, k < ds.length → (s.block.cursor.toNat + k) % 256 ≠ a.toNat) →
        t.block.readByte a = s.block.readByte a)

/-- R90 for REQ: N requests drive the bytes at c, c + 1, ... mod 256 in order, change none, and leave the cursor at
c + N mod 256. -/
def Obligations.RequestsWalkTheRegion : Prop :=
  ∀ (s : State) (n : Nat),
    ∃ t, execAll (List.replicate n .req) s = .next t ∧
      t.driven = s.driven ++
        (List.range n).map (fun k => s.block.readByte (BitVec.ofNat 8 (s.block.cursor.toNat + k))) ∧
      t.block.cursor.toNat = (s.block.cursor.toNat + n) % 256 ∧ SameBytes s.block t.block ∧
      t.block.armed = s.block.armed

/-- The write-then-read register access that 30_encoding.md section 5 infers: `RX a; END; REQ x n; END` drives the bytes
from the pointer on. -/
def Obligations.PointerThenReadDrivesFromThePointer : Prop :=
  ∀ (s : State) (a : Byte) (n : Nat), s.block.armed = false →
    ∃ t, execAll (.rx a :: .txEnd :: (List.replicate n .req ++ [.txEnd])) s = .next t ∧
      t.driven = s.driven ++
        (List.range n).map (fun k => s.block.readByte (BitVec.ofNat 8 ((addrDecode a).toNat + k))) ∧
      t.block.cursor.toNat = ((addrDecode a).toNat + n) % 256 ∧ SameBytes s.block t.block ∧
      t.block.armed = false

/-- The properties of addr_decode that 41_decoder.md section 1 infers, for every version tag and payload base: the tag
is the one byte that is no fixed point and the one byte that is no image, and the base has the two preimages. And
with the parameters of the spec a legacy address 0x01 and the tag leave the same state. -/
def Obligations.AddressDecoderHasOneTag : Prop :=
  (∀ tag base : Byte, tag ≠ base →
    (∀ b, addrDecodeWith tag base b = b ↔ b ≠ tag) ∧ (∀ v, (∃ b, addrDecodeWith tag base b = v) ↔ v ≠ tag) ∧
      ∀ b, addrDecodeWith tag base b = base ↔ b = base ∨ b = tag) ∧
    (∀ b, addrDecode b = addrDecodeWith 0x02 0x01 b) ∧
    ∀ s : State, s.block.armed = false → exec (.rx 0x02) s = exec (.rx 0x01) s

/-! ### send_command -/

/-- R142: the lines of the precondition wait. LDARM exits to the placing of the command on armed = 0; LDCUR on
cursor = 0; at a failing poll the wait ends by the bound or the draw, and then PRE_WAIT_TIMEOUT_ACTION decides;
else DELAY and a fresh poll. None of them changes the block or records an event. -/
def Obligations.PreconditionWaitLines : Prop :=
  ∀ (p : Params) (draw : Bool) (args : SendArgs) (n : Nat) (s : State),
    (s.fg.pos = .proc (.send args (.preArmed n)) →
      ∃ t, fgStep p draw s = .next t ∧ SameBlock s.block t.block ∧ t.events = s.events ∧
        t.fg.returns = s.fg.returns ∧
        t.fg.pos = .proc (.send args (if s.block.armed = false then .place else .preCursor n))) ∧
    (s.fg.pos = .proc (.send args (.preCursor n)) →
      ∃ t, fgStep p draw s = .next t ∧ SameBlock s.block t.block ∧ t.events = s.events ∧
        if s.block.cursor = 0 ∨ ((p.maxPolls ≤ n + 1 ∨ draw = true) ∧ p.preWait = .proceed) then
          t.fg.pos = .proc (.send args .place) ∧ t.fg.returns = s.fg.returns
        else if p.maxPolls ≤ n + 1 ∨ draw = true then
          t.fg.pos = .loop ∧ t.fg.returns = s.fg.returns ++ [.sent .failure]
        else t.fg.pos = .proc (.send args (.preDelay (n + 1))) ∧ t.fg.returns = s.fg.returns) ∧
    (s.fg.pos = .proc (.send args (.preDelay n)) →
      ∃ t, fgStep p draw s = .next t ∧ SameBlock s.block t.block ∧ t.events = s.events ∧
        t.fg.returns = s.fg.returns ∧ t.fg.pos = .proc (.send args (.preArmed n)))

/-- R143 and R144: with nothing in between, the three FG steps of steps 2 and 3 put the command in the mailbox, the
cursor at 0 and the strobe at 1, change nothing else of the block, raise no event, return nothing, and reach the first
poll of step 4. -/
def Obligations.CommandIsPlacedThenAnnounced : Prop :=
  ∀ (p : Params) (d1 d2 d3 : Bool) (args : SendArgs) (s : State),
    s.fg.pos = .proc (.send args .place) →
    ∃ t, runInputs p [.fg d1, .fg d2, .fg d3] s = .next t ∧
      t.block.readByte 0 = args.byte ∧ SameBytesBut 0 s.block t.block ∧ t.block.cursor = 0 ∧
      t.block.strobe = true ∧ t.block.armed = s.block.armed ∧ t.block.cmdError = s.block.cmdError ∧
      t.block.phase = s.block.phase ∧ t.events = s.events ∧ t.fg.pos = .proc (.send args (.poll 0)) ∧
      t.fg.returns = s.fg.returns

/-- R145 and R151, with R147: a poll of step 4 succeeds exactly when it reads a cursor that is not 0, and goes to
step 6; a failing poll reports (the bound or the draw) or sleeps and polls again. -/
def Obligations.ConsumptionPollLine : Prop :=
  ∀ (p : Params) (draw : Bool) (args : SendArgs) (n : Nat) (s : State),
    s.fg.pos = .proc (.send args (.poll n)) →
    ∃ t, fgStep p draw s = .next t ∧ SameBlock s.block t.block ∧ t.events = s.events ∧
      if s.block.cursor ≠ 0 then
        (args.clr = true → t.fg.pos = .proc (.send args (.lowerStrobe .success)) ∧
          t.fg.returns = s.fg.returns) ∧
        (args.clr = false → t.fg.pos = .loop ∧ t.fg.returns = s.fg.returns ++ [.sent .success])
      else
        t.fg.returns = s.fg.returns ∧
        t.fg.pos = .proc (.send args (if p.maxPolls ≤ n + 1 ∨ draw = true then .report else .pollDelay (n + 1)))

/-- R146 and R147: the report of a timeout records the error, keeps the mailbox, the cursor and the strobe, and goes
to step 6; step 6 lowers the strobe on SUCCESS and on FAILURE alike and returns the result. -/
def Obligations.TimeoutReportAndStrobeLines : Prop :=
  ∀ (p : Params) (draw : Bool) (args : SendArgs) (s : State),
    (s.fg.pos = .proc (.send args .report) →
      ∃ t, fgStep p draw s = .next t ∧ t.block.cmdError = true ∧ t.events = s.events ++ [.cmdTimeout] ∧
        SameBytes s.block t.block ∧ t.block.cursor = s.block.cursor ∧ t.block.strobe = s.block.strobe ∧
        t.block.armed = s.block.armed ∧ t.block.phase = s.block.phase ∧
        if args.clr = true then
          t.fg.pos = .proc (.send args (.lowerStrobe .failure)) ∧ t.fg.returns = s.fg.returns
        else t.fg.pos = .loop ∧ t.fg.returns = s.fg.returns ++ [.sent .failure]) ∧
    ∀ r, s.fg.pos = .proc (.send args (.lowerStrobe r)) →
      ∃ t, fgStep p draw s = .next t ∧ t.block.strobe = false ∧ SameBytes s.block t.block ∧
        t.block.cursor = s.block.cursor ∧ t.block.cmdError = s.block.cmdError ∧
        t.block.armed = s.block.armed ∧ t.block.phase = s.block.phase ∧ t.events = s.events ∧
        t.fg.pos = .loop ∧ t.fg.returns = s.fg.returns ++ [.sent r]

/-- R150: whatever HOST and TIMER do in between, a call of send_command returns within 5 * MAX_POLLS + 3 FG steps.
That the call begins with its first primitive is the model's choice (log 12). -/
def Obligations.SendCommandTerminates : Prop :=
  ∀ (p : Params) (args : SendArgs) (cs : List Call) (l : List Input) (s : State),
    0 < p.maxPolls → s.fg.pos = .loop → s.fg.calls = .send args :: cs → NoReset l →
    5 * p.maxPolls + 3 ≤ fgTurns l →
    ∃ t r more, runInputs p l s = .next t ∧ t.fg.returns = s.fg.returns ++ .sent r :: more

/-- P5 under R141 (Program 3 and V-SC7 in general): with no bus event and no early draw, a command to a silent host times
out: FAILURE, the flag and the event, the command still in the mailbox, the cursor at 0, and the strobe as step 6
leaves it. Step 1 takes one FG step of an unarmed block, two of an armed one with the cursor at 0, and 3 * MAX_POLLS - 1
where the silent host has left a write open with the cursor elsewhere; that last case is said of
PRE_WAIT_TIMEOUT_ACTION proceed. The call begins with its first primitive (log 12), and REQ_UPDATE_EFFECT is the
default. -/
def Obligations.SilentHostTimesOut : Prop :=
  ∀ (p : Params) (args : SendArgs) (cs : List Call) (pre : Nat) (s : State),
    NoUpdateEffect p → 0 < p.maxPolls → s.fg.pos = .loop → s.fg.calls = .send args :: cs →
    (p.preWait = .proceed ∨ s.block.armed = false ∨ s.block.cursor = 0) →
    pre = (if s.block.armed = false then 1 else if s.block.cursor = 0 then 2 else 3 * p.maxPolls - 1) →
    ∃ t, runInputs p (List.replicate (pre + 2 * p.maxPolls + 3 + (if args.clr then 1 else 0)) (.fg false)) s =
        .next t ∧
      t.fg.returns = s.fg.returns ++ [.sent .failure] ∧ t.fg.pos = .loop ∧ t.fg.calls = cs ∧
      t.block.cmdError = true ∧ t.events = s.events ++ [.cmdTimeout] ∧ t.block.readByte 0 = args.byte ∧
      t.block.cursor = 0 ∧ t.block.strobe = !args.clr ∧ t.block.armed = s.block.armed

/-- R85 (c) and R145: where the host requests the mailbox after the strobe has risen and before the first poll, it is
driven the command byte, and that poll succeeds without an error. It is said of a call with clear_strobe_after false;
that the call returns in the step of the poll is the model's choice (log 12). -/
def Obligations.ReadMailboxGivesSuccess : Prop :=
  ∀ (p : Params) (d1 d2 d3 d4 : Bool) (args : SendArgs) (s : State),
    s.fg.pos = .proc (.send args .place) → args.clr = false →
    ∃ t, runInputs p [.fg d1, .fg d2, .fg d3, .word 0x1100, .word 0x1200, .fg d4] s = .next t ∧
      t.driven = s.driven ++ [args.byte] ∧ t.fg.returns = s.fg.returns ++ [.sent .success] ∧
      t.block.cursor = 1 ∧ t.block.cmdError = s.block.cmdError ∧ t.events = s.events ∧
      t.block.strobe = true

/-- R148: in this spec request_status_update has no effect: under the default of REQ_UPDATE_EFFECT, which the machine's
step has, two states that differ only in the argument run alike on every input. -/
def Obligations.StatusUpdateArgumentHasNoEffect : Prop :=
  NoUpdateEffect specParams ∧ (∀ s : State, OutcomesAgree dropRsu (step s) (step (dropRsu s))) ∧
    ∀ (p : Params) (x : Input) (s : State), NoUpdateEffect p →
      OutcomesAgree dropRsu (runInput p x s) (runInput p x (dropRsu s))

/-- R149 and R198: a call made with the cursor at 0 does not wait: it overwrites what the mailbox holds, after one
FG step more where a transaction is armed. The call begins with its first primitive (log 12), and REQ_UPDATE_EFFECT
is the default. -/
def Obligations.SecondCommandOverwritesMailbox : Prop :=
  ∀ (p : Params) (d1 d2 d3 : Bool) (args : SendArgs) (cs : List Call) (s : State),
    NoUpdateEffect p → s.fg.pos = .loop → s.fg.calls = .send args :: cs → s.block.cursor = 0 →
    ∃ t, runInputs p (if s.block.armed then [.fg d1, .fg d2, .fg d3] else [.fg d1, .fg d2]) s = .next t ∧
      t.block.readByte 0 = args.byte ∧ SameBytesBut 0 s.block t.block ∧
      t.fg.pos = .proc (.send args .clearCursor)

/-- R190 (a), (b), (c): what a bus event between STMB and CLRCUR does. A REQ at cursor 0 is driven the new command
before the strobe rises; a data byte at cursor 0 destroys it; after an address phase the host's data lands at
bytes[0]. -/
def Obligations.EventsBetweenStoreAndCursorReset : Prop :=
  ∀ (p : Params) (d1 d2 : Bool) (args : SendArgs) (s : State), s.fg.pos = .proc (.send args .place) →
    (s.block.cursor = 0 →
      ∃ t, runInputs p [.fg d1, .word 0x1100, .fg d2] s = .next t ∧ t.driven = s.driven ++ [args.byte] ∧
        t.block.cursor = 0 ∧ t.block.strobe = s.block.strobe) ∧
    (s.block.cursor = 0 → s.block.armed = true → ∀ b : Byte,
      ∃ t, runInputs p [.fg d1, .word (encode (.rx b)), .fg d2] s = .next t ∧ t.block.readByte 0 = b ∧
        t.block.cursor = 0) ∧
    (s.block.armed = false → ∀ a b : Byte,
      ∃ t, runInputs p [.fg d1, .word (encode (.rx a)), .fg d2, .word (encode (.rx b))] s = .next t ∧
        t.block.readByte 0 = b ∧ t.block.cursor = 1 ∧ SameBytesBut 0 s.block t.block)

/-- R192: a host that begins a transaction (armed = 0 before it) at any address but 0 while a command is pending makes
the poll of step 4 succeed, although nothing was driven to it; with clear_strobe_after the call goes on to step 6 with
SUCCESS, and without it it returns SUCCESS, in the step of the poll (log 12). -/
def Obligations.StatusWriteGivesFalseSuccess : Prop :=
  ∀ (p : Params) (draw : Bool) (args : SendArgs) (n : Nat) (a : Byte) (s : State),
    s.fg.pos = .proc (.send args (.poll n)) → s.block.armed = false → a ≠ 0 →
    ∃ t, runInputs p [.word (encode (.rx a)), .fg draw] s = .next t ∧
      (args.clr = true → t.fg.pos = .proc (.send args (.lowerStrobe .success)) ∧ t.fg.returns = s.fg.returns) ∧
      (args.clr = false → t.fg.pos = .loop ∧ t.fg.returns = s.fg.returns ++ [.sent .success]) ∧
      t.driven = s.driven ∧ t.events = s.events ∧ SameBytes s.block t.block

/-- R193: with the cursor at 0 and armed = 0, the host reads the mailbox and then sets the pointer to 0 (which is no
VERSION_TAG), or reads exactly 256 bytes; the next poll does not see the consumption: it goes on to DELAY and a fresh
poll, or, where the bound or the draw ends the wait, to report a timeout. -/
def Obligations.ConsumptionBackAtZeroIsNotSeen : Prop :=
  ∀ (p : Params) (draw : Bool) (args : SendArgs) (n : Nat) (evs : List Input) (s : State),
    p.versionTag ≠ 0 → s.fg.pos = .proc (.send args (.poll n)) → s.block.armed = false → s.block.cursor = 0 →
    (evs = [.word 0x1100, .word 0x1200, .word 0x1000, .word 0x1200] ∨
      evs = List.replicate 256 (.word 0x1100)) →
    ∃ t, runInputs p (evs ++ [.fg draw]) s = .next t ∧
      t.fg.pos = .proc (.send args (if p.maxPolls ≤ n + 1 ∨ draw = true then .report else .pollDelay (n + 1))) ∧
      t.fg.returns = s.fg.returns ∧ t.events = s.events ∧ t.block.cursor = 0 ∧
      ∃ more, t.driven = s.driven ++ s.block.readByte 0 :: more

/-! ### snapshot_read and the packet view -/

/-- R110: with armed = 0 and nothing in between, snapshot_read(lo, n) takes n + 2 FG steps and returns OK of the n
bytes from lo, mod 256, and the block is as before. The call begins with its first primitive (log 12); n = 0 is the
model's reading (log 13). -/
def Obligations.QuietSnapshotReturnsTheRegion : Prop :=
  ∀ (p : Params) (lo : Byte) (n : Nat) (cs : List Call) (ds : List Bool) (s : State),
    s.fg.pos = .loop → s.fg.calls = .snap lo n :: cs → s.block.armed = false → ds.length = n + 2 →
    ∃ t, runInputs p (ds.map .fg) s = .next t ∧
      t.fg.returns = s.fg.returns ++ [.snapshot .region (some
        ((List.range n).map (fun k => s.block.readByte (BitVec.ofNat 8 (lo.toNat + k)))))] ∧
      t.fg.pos = .loop ∧ SameBlock s.block t.block ∧ t.events = s.events

/-- R110 and P7: a snapshot or packet read begun while armed = 1 returns SKIP in one FG step, changes nothing of the
block, and gives the consumer nothing. The call begins with its first primitive (log 12). -/
def Obligations.SnapshotOfArmedBlockSkips : Prop :=
  ∀ (p : Params) (draw : Bool) (c : Call) (cs : List Call) (kind : SnapKind) (s : State),
    s.fg.pos = .loop → s.fg.calls = c :: cs → s.block.armed = true →
    ((kind = .region ∧ ∃ lo n, c = .snap lo n) ∨ (kind = .packet ∧ c = .readPacket)) →
    ∃ t, fgStep p draw s = .next t ∧ t.fg.returns = s.fg.returns ++ [.snapshot kind none] ∧ t.fg.pos = .loop ∧
      SameBlock s.block t.block ∧ t.events = s.events ∧ consumerUpdate p (.snapshot kind none) = none

/-- R110 and R111: whatever HOST and TIMER do in between, snapshot_read(lo, n) ends within n + 2 FG steps, and read_packet
in the reference layout within 28 + 127 + 2. The call begins with its first primitive (log 12); n = 0 is the model's
reading (log 13). -/
def Obligations.SnapshotNeverBlocks : Prop :=
  (∀ (p : Params) (lo : Byte) (n : Nat) (cs : List Call) (l : List Input) (s : State),
    s.fg.pos = .loop → s.fg.calls = .snap lo n :: cs → NoReset l → n + 2 ≤ fgTurns l →
    ∃ t v more, runInputs p l s = .next t ∧ t.fg.returns = s.fg.returns ++ .snapshot .region v :: more) ∧
  ∀ (p : Params) (cs : List Call) (l : List Input) (s : State),
    p.packetLayout = Config.packetLayout → s.fg.pos = .loop → s.fg.calls = .readPacket :: cs → NoReset l →
    28 + 127 + 2 ≤ fgTurns l →
    ∃ t v more, runInputs p l s = .next t ∧ t.fg.returns = s.fg.returns ++ .snapshot .packet v :: more

/-- R110 and R111, line by line, of snapshot_read and of read_packet: each check goes on, or returns OK, exactly when
armed = 0 at that instant, and each byte read is the one the region holds at that instant; no line changes the block.
In the reference layout read_packet goes from the byte of msg_ctl, the 28th it reads, to the message at 0x1D where that
byte is in 1..127, and from there, as from any other last byte, to the second check. The return in the step of the
check is the model's choice (log 12). -/
def Obligations.SnapshotLinesReadTheirInstant : Prop :=
  ∀ (p : Params) (draw : Bool) (kind : SnapKind) (a : Byte) (n : Nat) (got : List Byte) (s : State),
    (s.fg.pos = .proc (.snap kind (.firstCheck a (n + 1))) →
      ∃ t, fgStep p draw s = .next t ∧ SameBlock s.block t.block ∧
        if s.block.armed = true then
          t.fg.pos = .loop ∧ t.fg.returns = s.fg.returns ++ [.snapshot kind none]
        else
          t.fg.pos = .proc (.snap kind (.readByte a (n + 1) [])) ∧ t.fg.returns = s.fg.returns) ∧
    (s.fg.pos = .proc (.snap .region (.readByte a (n + 1) got)) →
      ∃ t, fgStep p draw s = .next t ∧ SameBlock s.block t.block ∧ t.fg.returns = s.fg.returns ∧
        t.fg.pos = .proc (.snap .region
          (if n = 0 then .lastCheck (got ++ [s.block.readByte a])
            else .readByte (a + 1) n (got ++ [s.block.readByte a])))) ∧
    (∀ len : Nat, p.packetLayout = Config.packetLayout →
      len = (if got.length = 27 ∧ (s.block.readByte a).toNat ≤ 127 then (s.block.readByte a).toNat else 0) →
      s.fg.pos = .proc (.snap .packet (.readByte a (n + 1) got)) →
      ∃ t, fgStep p draw s = .next t ∧ SameBlock s.block t.block ∧ t.fg.returns = s.fg.returns ∧
        t.fg.pos = .proc (.snap .packet
          (if n ≠ 0 then .readByte (a + 1) n (got ++ [s.block.readByte a])
            else if len = 0 then .lastCheck (got ++ [s.block.readByte a])
            else .readByte 0x1D len (got ++ [s.block.readByte a])))) ∧
    (s.fg.pos = .proc (.snap kind (.lastCheck got)) →
      ∃ t, fgStep p draw s = .next t ∧ SameBlock s.block t.block ∧ t.fg.pos = .loop ∧
        t.fg.returns = s.fg.returns ++ [.snapshot kind (if s.block.armed = true then none else some got)])

/-- R110: in the reference layout a quiet read_packet reads 0x01 to 0x1C, then the message of msg_ctl bytes where msg_ctl
is in 1..127, between the same two checks. The call begins with its first primitive (log 12). -/
def Obligations.QuietPacketReadFollowsMsgCtl : Prop :=
  ∀ (p : Params) (cs : List Call) (len : Nat) (ds : List Bool) (s : State),
    p.packetLayout = Config.packetLayout → s.fg.pos = .loop → s.fg.calls = .readPacket :: cs → s.block.armed = false →
    len = (if (s.block.readByte 0x1C).toNat ≤ 127 then (s.block.readByte 0x1C).toNat else 0) →
    ds.length = len + 30 →
    ∃ t, runInputs p (ds.map .fg) s = .next t ∧
      t.fg.returns = s.fg.returns ++ [.snapshot .packet (some
        ((List.range (len + 28)).map (fun k => s.block.readByte (BitVec.ofNat 8 (1 + k)))))] ∧
      t.fg.pos = .loop ∧ SameBlock s.block t.block

/-- R114 to R119 in the reference layout: where each field of the decoded packet comes from. The four bytes of a wide
field are little-endian; spindle_rpm is two's complement. What number a binary32 pattern stands for is presumed
(log 14), and that a list with fewer message bytes than msg_ctl announces gives a packet too, with the bytes that are
there, is the model's choice (log 15). The last clause is about every layout: a snapshot of the bytes the model reads
for it (its choice, log 24) holds every field of it, each from its own address and width. -/
def Obligations.PacketFieldsFollowTheLayout : Prop :=
  (∀ (v : List Byte) (b : Nat → Byte) (raw : Nat → Nat),
    28 ≤ v.length → (∀ k, k < 28 → v[k]? = some (b (k + 1))) →
    (∀ a, raw a = (b a).toNat + 256 * (b (a + 1)).toNat + 65536 * (b (a + 2)).toNat +
      16777216 * (b (a + 3)).toNat) →
    ∃ pk, decodePacket Config.packetLayout Config.fieldByteOrder v = some pk ∧
      pk.systemState = byteField (b 0x01) ∧ pk.statusCode = byteField (b 0x02) ∧
      pk.alarmSubstate = byteField (b 0x03) ∧ pk.feedOverride = byteField (b 0x04) ∧
      pk.spindleOverride = byteField (b 0x05) ∧ pk.spindleRpm.raw = raw 0x06 ∧
      pk.spindleRpm.reading =
        .signed (if raw 0x06 < 2 ^ 31 then (raw 0x06 : Int) else (raw 0x06 : Int) - 2 ^ 32) ∧
      pk.coordX = floatField (raw 0x0A) ∧ pk.coordY = floatField (raw 0x0E) ∧
      pk.coordZ = floatField (raw 0x12) ∧ pk.coordA = axisOf (floatField (raw 0x16)) ∧
      pk.jogMode = byteField (b 0x1A) ∧ pk.currentWcs = byteField (b 0x1B) ∧
      pk.msgCtl = classifyMsgCtl (b 0x1C).toNat ∧
      pk.message = (if (b 0x1C).toNat ≤ 127 then (v.drop 28).take (b 0x1C).toNat else [])) ∧
  ∀ (lay : PacketLayout) (order : FieldByteOrder) (m : Nat → Byte) (f : PacketField), f ∈ layoutFields lay →
    fieldRaw lay order ((List.range (packetFixedLength lay)).map (fun k => m (packetBase lay + k))) f =
      assembleBytes order ((List.range f.width).map (fun j => m (f.addr + j)))

/-- R117: the fourth axis, a binary32 field, is absent exactly for the patterns with exponent bits [30:23] all ones and
fraction bits [22:0] not zero, whatever their sign; an infinity is present. The reading of the other patterns is
presumed (log 14). -/
def Obligations.AxisIsAbsentExactlyForNan : Prop :=
  ∀ (raw : BitVec 32) (f : FieldValue), f = floatField raw.toNat →
    (axisOf f = .absent ↔ raw.toNat / 2 ^ 23 % 2 ^ 8 = 0xFF ∧ raw.toNat % 2 ^ 23 ≠ 0) ∧
    (axisOf f ≠ .absent → axisOf f = .present f ∧ f.reading = .binary32 (binary32 raw)) ∧
    (raw.toNat % 2 ^ 31 = 0x7F800000 →
      axisOf f = .present f ∧ f.reading = .binary32 (.infinity (decide (2 ^ 31 ≤ raw.toNat))))

/-- R119, for the decoded packet and not only for the byte: the class of each msg_ctl value, and which of them carry
message bytes. That a list with fewer message bytes than msg_ctl announces gives the announced length and the bytes that
are there is the model's choice (log 15). -/
def Obligations.MessageControlTable : Prop :=
  ∀ (v : List Byte) (c : Byte), v[27]? = some c →
    ∃ pk, decodePacket Config.packetLayout Config.fieldByteOrder v = some pk ∧
      (c.toNat = 0 → pk.msgCtl = .noMessage ∧ pk.message = []) ∧
      (1 ≤ c.toNat → c.toNat ≤ 127 → pk.msgCtl = .length c.toNat ∧
        pk.message = (v.drop 28).take c.toNat) ∧
      (128 ≤ c.toNat → c.toNat ≤ 252 → pk.msgCtl = .reserved c.toNat ∧ pk.message = []) ∧
      (c.toNat = 253 → pk.msgCtl = .overrides ∧ pk.message = []) ∧
      (c.toNat = 254 → pk.msgCtl = .offset ∧ pk.message = []) ∧
      (c.toNat = 255 → pk.msgCtl = .clearMessage ∧ pk.message = [])

/-- R120, for every value NO_HOST_STATUS may have: a packet with that status gives the consumer nothing, a packet with
any other status gives it the decoded packet. That a list with fewer message bytes than its msg_ctl announces counts as
a packet is the model's choice (log 15). -/
def Obligations.NoHostSuppressesTheUpdate : Prop :=
  ∀ (noHost : Nat) (v : List Byte), 28 ≤ v.length →
    ∃ pk, decodePacket Config.packetLayout Config.fieldByteOrder v = some pk ∧
      consumerUpdateWith noHost Config.packetLayout Config.fieldByteOrder (.snapshot .packet (some v)) =
        if v[1]?.map BitVec.toNat = some noHost then none else some pk

/-! ### I2C framing -/

/-- The framing of 30_encoding.md section 5, its general knowledge of I2C (log 17): a write transfer to this block is one
RX per data byte and an END, a read transfer one REQ per byte and an END, a repeated START ends the first half, and a
transfer to another address is no event at all. -/
def Obligations.TransfersBecomeBusEvents : Prop :=
  ∀ (own other : BitVec 7) (bs : List Byte) (acks : List Bool), other ≠ own →
    frameEvents own .free (.start :: .address own false :: (bs.map .hostWrites ++ [.stop])) =
      bs.map .rx ++ [.txEnd] ∧
    frameEvents own .free (.start :: .address own true :: (acks.map .hostReads ++ [.stop])) =
      List.replicate acks.length .req ++ [.txEnd] ∧
    frameEvents own .free (.start :: .address own false :: (bs.map .hostWrites ++
      .start :: .address own true :: (acks.map .hostReads ++ [.stop]))) =
      bs.map .rx ++ .txEnd :: (List.replicate acks.length .req ++ [.txEnd]) ∧
    ∀ read, frameEvents own .free (.start :: .address other read :: (bs.map .hostWrites ++
      (acks.map .hostReads ++ [.stop]))) = []

/-- Whatever happens on the bus, the events it gives are a sequence of whole transactions of the grammar of
30_encoding.md section 5, which is its general knowledge (log 17), once no transfer addressed to this block is open;
and the model's check of that grammar accepts exactly such sequences. That a transaction without its END yet is not
legal, and that two ENDs in a row, which R75 names among what the grammar excludes, are legal as two address-only
transactions, are the model's choices (logs 23 and 25). -/
def Obligations.BusActivityIsI2cLegal : Prop :=
  (∀ (own : BitVec 7) (xs : List BusActivity), addressedHere (frameAfter own .free xs) = false →
    I2cLegal (frameEvents own .free xs)) ∧
  ∀ es : List Instr, i2cLegalCheck es = true ↔ I2cLegal es
end

