-- ==== Sys2Proof/Laws/Decode.lean ====
section
/-! SUPPORT. The fields of a word: what the encoder puts together the decoder takes apart, and the other way round. -/

namespace Sys2Proof

/-- A word is its three fields put together (R60). -/
theorem wordOf_fields (w : OpWord) : wordOf (clsField w) (opField w) (immField w) = w := by
  apply BitVec.eq_of_getLsbD_eq
  intro i hi
  simp only [wordOf, clsField, opField, immField, BitVec.getLsbD_append, BitVec.getLsbD_extractLsb']
  by_cases h1 : i < 8
  · simp [h1]
  · by_cases h2 : i - 8 < 4
    · simp [h1, h2, show 8 + (i - 8) = i by omega]
    · simp [h1, h2, show i - 8 - 4 < 4 by omega, show 12 + (i - 8 - 4) = i by omega]

@[simp] theorem clsField_wordOf (c o : BitVec 4) (imm : Byte) : clsField (wordOf c o imm) = c := by
  apply BitVec.eq_of_getLsbD_eq
  intro i hi
  simp only [wordOf, clsField, BitVec.getLsbD_append, BitVec.getLsbD_extractLsb']
  simp [hi, show ¬ 12 + i < 8 by omega, show ¬ 12 + i - 8 < 4 by omega, show 12 + i - 8 - 4 = i by omega]

@[simp] theorem opField_wordOf (c o : BitVec 4) (imm : Byte) : opField (wordOf c o imm) = o := by
  apply BitVec.eq_of_getLsbD_eq
  intro i hi
  simp only [wordOf, opField, BitVec.getLsbD_append, BitVec.getLsbD_extractLsb']
  simp [hi, show ¬ 8 + i < 8 by omega]

@[simp] theorem immField_wordOf (c o : BitVec 4) (imm : Byte) : immField (wordOf c o imm) = imm := by
  apply BitVec.eq_of_getLsbD_eq
  intro i hi
  simp only [wordOf, immField, BitVec.getLsbD_append, BitVec.getLsbD_extractLsb']
  simp [hi]

/-- Decoding a word put together from fields depends on the fields alone. -/
theorem decodeWord_wordOf (c o : BitVec 4) (imm : Byte) :
    decodeWord (wordOf c o imm) =
      match decodeFields c o imm with
      | some i => .op i
      | none => .invalid (wordOf c o imm) := by
  cases h : decodeFields c o imm <;> simp [decodeWord, h]

end Sys2Proof
end

