-- ==== Sys2Proof/Laws/State.lean ====
section
/-! SUPPORT. What each update of the block and of the state leaves in each field, each true by rfl. -/

namespace Sys2Proof.Machine

section setCursor
variable (k : Block) (c : Byte)
@[simp] theorem Block.setCursor_bytes : (k.setCursor c).bytes = k.bytes := rfl
@[simp] theorem Block.setCursor_cursor : (k.setCursor c).cursor = c := rfl
@[simp] theorem Block.setCursor_armed : (k.setCursor c).armed = k.armed := rfl
@[simp] theorem Block.setCursor_strobe : (k.setCursor c).strobe = k.strobe := rfl
@[simp] theorem Block.setCursor_cmdError : (k.setCursor c).cmdError = k.cmdError := rfl
@[simp] theorem Block.setCursor_phase : (k.setCursor c).phase = k.phase := rfl
end setCursor

section setPhase
variable (k : Block) (p : Phase)
@[simp] theorem Block.setPhase_bytes : (k.setPhase p).bytes = k.bytes := rfl
@[simp] theorem Block.setPhase_cursor : (k.setPhase p).cursor = k.cursor := rfl
@[simp] theorem Block.setPhase_armed : (k.setPhase p).armed = k.armed := rfl
@[simp] theorem Block.setPhase_strobe : (k.setPhase p).strobe = k.strobe := rfl
@[simp] theorem Block.setPhase_cmdError : (k.setPhase p).cmdError = k.cmdError := rfl
@[simp] theorem Block.setPhase_phase : (k.setPhase p).phase = p := rfl
end setPhase

section setArmed
variable (k : Block) (v : Bool)
@[simp] theorem Block.setArmed_bytes : (k.setArmed v).bytes = k.bytes := rfl
@[simp] theorem Block.setArmed_cursor : (k.setArmed v).cursor = k.cursor := rfl
@[simp] theorem Block.setArmed_armed : (k.setArmed v).armed = v := rfl
@[simp] theorem Block.setArmed_strobe : (k.setArmed v).strobe = k.strobe := rfl
@[simp] theorem Block.setArmed_cmdError : (k.setArmed v).cmdError = k.cmdError := rfl
@[simp] theorem Block.setArmed_phase : (k.setArmed v).phase = k.phase := rfl
end setArmed

section setStrobe
variable (k : Block) (v : Bool)
@[simp] theorem Block.setStrobe_bytes : (k.setStrobe v).bytes = k.bytes := rfl
@[simp] theorem Block.setStrobe_cursor : (k.setStrobe v).cursor = k.cursor := rfl
@[simp] theorem Block.setStrobe_armed : (k.setStrobe v).armed = k.armed := rfl
@[simp] theorem Block.setStrobe_strobe : (k.setStrobe v).strobe = v := rfl
@[simp] theorem Block.setStrobe_cmdError : (k.setStrobe v).cmdError = k.cmdError := rfl
@[simp] theorem Block.setStrobe_phase : (k.setStrobe v).phase = k.phase := rfl
end setStrobe

section setCmdError
variable (k : Block) (v : Bool)
@[simp] theorem Block.setCmdError_bytes : (k.setCmdError v).bytes = k.bytes := rfl
@[simp] theorem Block.setCmdError_cursor : (k.setCmdError v).cursor = k.cursor := rfl
@[simp] theorem Block.setCmdError_armed : (k.setCmdError v).armed = k.armed := rfl
@[simp] theorem Block.setCmdError_strobe : (k.setCmdError v).strobe = k.strobe := rfl
@[simp] theorem Block.setCmdError_cmdError : (k.setCmdError v).cmdError = v := rfl
@[simp] theorem Block.setCmdError_phase : (k.setCmdError v).phase = k.phase := rfl
end setCmdError

section writeByte
variable (k : Block) (a v : Byte)
@[simp] theorem Block.writeByte_bytes : (k.writeByte a v).bytes = k.bytes.write a.toNat v := rfl
@[simp] theorem Block.writeByte_cursor : (k.writeByte a v).cursor = k.cursor := rfl
@[simp] theorem Block.writeByte_armed : (k.writeByte a v).armed = k.armed := rfl
@[simp] theorem Block.writeByte_strobe : (k.writeByte a v).strobe = k.strobe := rfl
@[simp] theorem Block.writeByte_cmdError : (k.writeByte a v).cmdError = k.cmdError := rfl
@[simp] theorem Block.writeByte_phase : (k.writeByte a v).phase = k.phase := rfl
end writeByte

section setBlock
variable (s : State) (k : Block)
@[simp] theorem State.setBlock_block : (s.setBlock k).block = k := rfl
@[simp] theorem State.setBlock_events : (s.setBlock k).events = s.events := rfl
@[simp] theorem State.setBlock_driven : (s.setBlock k).driven = s.driven := rfl
@[simp] theorem State.setBlock_schedule : (s.setBlock k).schedule = s.schedule := rfl
@[simp] theorem State.setBlock_pos : (s.setBlock k).fg.pos = s.fg.pos := rfl
@[simp] theorem State.setBlock_result : (s.setBlock k).fg.result = s.fg.result := rfl
@[simp] theorem State.setBlock_calls : (s.setBlock k).fg.calls = s.fg.calls := rfl
@[simp] theorem State.setBlock_returns : (s.setBlock k).fg.returns = s.fg.returns := rfl
@[simp] theorem State.setBlock_fg : (s.setBlock k).fg = s.fg := rfl
end setBlock

section deliver
variable (s : State) (v : Byte)
@[simp] theorem State.deliver_block : (s.deliver v).block = s.block := rfl
@[simp] theorem State.deliver_events : (s.deliver v).events = s.events := rfl
@[simp] theorem State.deliver_driven : (s.deliver v).driven = s.driven := rfl
@[simp] theorem State.deliver_schedule : (s.deliver v).schedule = s.schedule := rfl
@[simp] theorem State.deliver_pos : (s.deliver v).fg.pos = s.fg.pos := rfl
@[simp] theorem State.deliver_result : (s.deliver v).fg.result = v := rfl
@[simp] theorem State.deliver_calls : (s.deliver v).fg.calls = s.fg.calls := rfl
@[simp] theorem State.deliver_returns : (s.deliver v).fg.returns = s.fg.returns := rfl
end deliver

section drive
variable (s : State) (v : Byte)
@[simp] theorem State.drive_block : (s.drive v).block = s.block := rfl
@[simp] theorem State.drive_events : (s.drive v).events = s.events := rfl
@[simp] theorem State.drive_driven : (s.drive v).driven = s.driven ++ [v] := rfl
@[simp] theorem State.drive_schedule : (s.drive v).schedule = s.schedule := rfl
@[simp] theorem State.drive_pos : (s.drive v).fg.pos = s.fg.pos := rfl
@[simp] theorem State.drive_result : (s.drive v).fg.result = s.fg.result := rfl
@[simp] theorem State.drive_calls : (s.drive v).fg.calls = s.fg.calls := rfl
@[simp] theorem State.drive_returns : (s.drive v).fg.returns = s.fg.returns := rfl
@[simp] theorem State.drive_fg : (s.drive v).fg = s.fg := rfl
end drive

section raiseEvent
variable (s : State) (e : BlockEvent)
@[simp] theorem State.raiseEvent_block : (s.raiseEvent e).block = s.block := rfl
@[simp] theorem State.raiseEvent_events : (s.raiseEvent e).events = s.events ++ [e] := rfl
@[simp] theorem State.raiseEvent_driven : (s.raiseEvent e).driven = s.driven := rfl
@[simp] theorem State.raiseEvent_schedule : (s.raiseEvent e).schedule = s.schedule := rfl
@[simp] theorem State.raiseEvent_pos : (s.raiseEvent e).fg.pos = s.fg.pos := rfl
@[simp] theorem State.raiseEvent_result : (s.raiseEvent e).fg.result = s.fg.result := rfl
@[simp] theorem State.raiseEvent_calls : (s.raiseEvent e).fg.calls = s.fg.calls := rfl
@[simp] theorem State.raiseEvent_returns : (s.raiseEvent e).fg.returns = s.fg.returns := rfl
@[simp] theorem State.raiseEvent_fg : (s.raiseEvent e).fg = s.fg := rfl
end raiseEvent

section setFgPos
variable (s : State) (p : FgPos)
@[simp] theorem State.setFgPos_block : (s.setFgPos p).block = s.block := rfl
@[simp] theorem State.setFgPos_events : (s.setFgPos p).events = s.events := rfl
@[simp] theorem State.setFgPos_driven : (s.setFgPos p).driven = s.driven := rfl
@[simp] theorem State.setFgPos_schedule : (s.setFgPos p).schedule = s.schedule := rfl
@[simp] theorem State.setFgPos_pos : (s.setFgPos p).fg.pos = p := rfl
@[simp] theorem State.setFgPos_result : (s.setFgPos p).fg.result = s.fg.result := rfl
@[simp] theorem State.setFgPos_calls : (s.setFgPos p).fg.calls = s.fg.calls := rfl
@[simp] theorem State.setFgPos_returns : (s.setFgPos p).fg.returns = s.fg.returns := rfl
end setFgPos

section setCalls
variable (s : State) (cs : List Call)
@[simp] theorem State.setCalls_block : (s.setCalls cs).block = s.block := rfl
@[simp] theorem State.setCalls_events : (s.setCalls cs).events = s.events := rfl
@[simp] theorem State.setCalls_driven : (s.setCalls cs).driven = s.driven := rfl
@[simp] theorem State.setCalls_schedule : (s.setCalls cs).schedule = s.schedule := rfl
@[simp] theorem State.setCalls_pos : (s.setCalls cs).fg.pos = s.fg.pos := rfl
@[simp] theorem State.setCalls_result : (s.setCalls cs).fg.result = s.fg.result := rfl
@[simp] theorem State.setCalls_calls : (s.setCalls cs).fg.calls = cs := rfl
@[simp] theorem State.setCalls_returns : (s.setCalls cs).fg.returns = s.fg.returns := rfl
end setCalls

section procReturn
variable (s : State) (r : ProcReturn)
@[simp] theorem State.procReturn_block : (s.procReturn r).block = s.block := rfl
@[simp] theorem State.procReturn_events : (s.procReturn r).events = s.events := rfl
@[simp] theorem State.procReturn_driven : (s.procReturn r).driven = s.driven := rfl
@[simp] theorem State.procReturn_schedule : (s.procReturn r).schedule = s.schedule := rfl
@[simp] theorem State.procReturn_pos : (s.procReturn r).fg.pos = .loop := rfl
@[simp] theorem State.procReturn_result : (s.procReturn r).fg.result = s.fg.result := rfl
@[simp] theorem State.procReturn_calls : (s.procReturn r).fg.calls = s.fg.calls := rfl
@[simp] theorem State.procReturn_returns : (s.procReturn r).fg.returns = s.fg.returns ++ [r] := rfl
end procReturn

section setSchedule
variable (s : State) (l : List Input)
@[simp] theorem State.setSchedule_block : (s.setSchedule l).block = s.block := rfl
@[simp] theorem State.setSchedule_events : (s.setSchedule l).events = s.events := rfl
@[simp] theorem State.setSchedule_driven : (s.setSchedule l).driven = s.driven := rfl
@[simp] theorem State.setSchedule_schedule : (s.setSchedule l).schedule = l := rfl
@[simp] theorem State.setSchedule_pos : (s.setSchedule l).fg.pos = s.fg.pos := rfl
@[simp] theorem State.setSchedule_result : (s.setSchedule l).fg.result = s.fg.result := rfl
@[simp] theorem State.setSchedule_calls : (s.setSchedule l).fg.calls = s.fg.calls := rfl
@[simp] theorem State.setSchedule_returns : (s.setSchedule l).fg.returns = s.fg.returns := rfl
@[simp] theorem State.setSchedule_fg : (s.setSchedule l).fg = s.fg := rfl
end setSchedule

end Sys2Proof.Machine
end

