-- ==== Sys2Proof/Laws/Memory.lean ====
section
/-! SUPPORT. What one write does to every later read of the region, and that the region keeps its canonical form. -/

namespace Sys2Proof.Machine

theorem Memory.read_erase (m : Memory) (a b : Nat) :
    (m.erase a).read b = if b = a then 0 else m.read b := by
  induction m with
  | nil => simp [Memory.erase, Memory.read]
  | cons c m ih =>
    simp only [Memory.erase, Memory.read] at ih ⊢
    by_cases hc : c.1 = a
    · rw [List.filter_cons_of_neg (by simp [hc]), ih]
      by_cases hb : b = a
      · simp [hb]
      · simp [hb, show c.1 ≠ b by omega]
    · rw [List.filter_cons_of_pos (by simp [hc]), Memory.read, ih]
      by_cases hb : b = a
      · simp [hb, hc]
      · simp [hb]

theorem Memory.read_insert (m : Memory) (a b : Nat) (v : Byte) (h : ∀ c ∈ m, c.1 ≠ a) :
    (m.insert a v).read b = if b = a then v else m.read b := by
  induction m with
  | nil => simp [Memory.insert, Memory.read, eq_comm]
  | cons c m ih =>
    have hc : c.1 ≠ a := h c (by simp)
    simp only [Memory.insert]
    split
    · simp [Memory.read, eq_comm]
    · rw [Memory.read, ih (fun d hd => h d (by simp [hd])), Memory.read]
      by_cases hb : b = a
      · simp [hb, hc]
      · simp [hb]

theorem Memory.erase_ne {m : Memory} {a : Nat} : ∀ c ∈ m.erase a, c.1 ≠ a := by
  simp [Memory.erase]

/-- A read after a write: the value written at that address, the value before it at every other (R49). It holds of
every list of cells, canonical or not. -/
theorem Memory.read_write (m : Memory) (a b : Nat) (v : Byte) :
    (m.write a v).read b = if b = a then v else m.read b := by
  unfold Memory.write
  split
  · next hv => rw [Memory.read_erase, hv]
  · rw [Memory.read_insert _ _ _ _ Memory.erase_ne, Memory.read_erase]
    split <;> simp_all

theorem Memory.erase_wf {m : Memory} (h : m.wf) (a : Nat) : (m.erase a).wf :=
  ⟨h.1.filter _, fun c hc => h.2 c (List.mem_of_mem_filter hc)⟩

theorem Memory.mem_insert {m : Memory} {a : Nat} {v : Byte} {c : Host.Cell} :
    c ∈ m.insert a v ↔ c = (a, v) ∨ c ∈ m := by
  induction m with
  | nil => simp [Memory.insert]
  | cons d m ih =>
    simp only [Memory.insert]
    split
    · simp
    · simp [ih, or_left_comm]

theorem Memory.insert_wf {m : Memory} (h : m.wf) {a : Nat} {v : Byte} (ha : a < 256) (hv : v ≠ 0)
    (hne : ∀ c ∈ m, c.1 ≠ a) : (m.insert a v).wf := by
  refine ⟨?_, fun c hc => ?_⟩
  · have hp := h.1
    clear h
    induction m with
    | nil => simp [Memory.insert]
    | cons c m ih =>
      have hc := List.pairwise_cons.1 hp
      simp only [Memory.insert]
      split
      · next hlt =>
        refine List.pairwise_cons.2 ⟨fun d hd => ?_, hp⟩
        rcases List.mem_cons.1 hd with rfl | hd
        · exact hlt
        · exact lt_trans hlt (hc.1 d hd)
      · next hge =>
        refine List.pairwise_cons.2 ⟨fun d hd => ?_, ih (fun d hd => hne d (by simp [hd])) hc.2⟩
        rcases Memory.mem_insert.1 hd with rfl | hd
        · have := hne c (by simp)
          show c.1 < a
          omega
        · exact hc.1 d hd
  · rcases Memory.mem_insert.1 hc with rfl | hc
    · exact ⟨ha, hv⟩
    · exact h.2 c hc

/-- A write inside the region keeps the canonical form. -/
theorem Memory.write_wf {m : Memory} (h : m.wf) {a : Nat} (ha : a < 256) (v : Byte) : (m.write a v).wf := by
  unfold Memory.write
  split
  · exact Memory.erase_wf h a
  · next hv => exact Memory.insert_wf (Memory.erase_wf h a) ha hv Memory.erase_ne

/-- The region of `State.reset` has the canonical form. -/
theorem State.reset_bytes_wf : State.reset.block.bytes.wf := by decide

/-- A region byte after `bytes[a] <- v` (R10). -/
@[simp] theorem Block.readByte_writeByte (k : Block) (a b v : Byte) :
    (k.writeByte a v).readByte b = if b = a then v else k.readByte b := by
  simp only [Block.readByte, Block.writeByte, Memory.read_write, BitVec.toNat_inj]

@[simp] theorem Block.readByte_setCursor (k : Block) (c a : Byte) : (k.setCursor c).readByte a = k.readByte a := rfl
@[simp] theorem Block.readByte_setPhase (k : Block) (p : Phase) (a : Byte) :
    (k.setPhase p).readByte a = k.readByte a := rfl
@[simp] theorem Block.readByte_setArmed (k : Block) (v : Bool) (a : Byte) :
    (k.setArmed v).readByte a = k.readByte a := rfl
@[simp] theorem Block.readByte_setStrobe (k : Block) (v : Bool) (a : Byte) :
    (k.setStrobe v).readByte a = k.readByte a := rfl
@[simp] theorem Block.readByte_setCmdError (k : Block) (v : Bool) (a : Byte) :
    (k.setCmdError v).readByte a = k.readByte a := rfl

/-- Writing a byte of the region keeps the block's canonical form. -/
theorem Block.writeByte_wf {k : Block} (h : k.bytes.wf) (a v : Byte) : (k.writeByte a v).bytes.wf :=
  Memory.write_wf h a.isLt v

/-- A block at power-up reads 0x00 everywhere (R33). -/
@[simp] theorem Block.readByte_powerUp (p : Params) (a : Byte) : (Block.powerUp p).readByte a = 0 := rfl

/-- The block RESET leaves is the block of `State.reset` but for the strobe's level (R33, R180). -/
theorem Block.powerUp_eq (p : Params) : Block.powerUp p = Block.reset.setStrobe p.strobeResetLevel := rfl

/-- With the spec's parameters it is the block of `State.reset` (R33, R180). -/
theorem Block.powerUp_specParams : Block.powerUp specParams = Block.reset := rfl

/-- The length of a multi-byte read (R10). -/
@[simp] theorem Block.length_memRead (k : Block) (a : Byte) (n : Nat) : (k.memRead a n).length = n := by
  induction n generalizing a with
  | zero => rfl
  | succ n ih => simp [Block.memRead, ih]

end Sys2Proof.Machine
end

