-- ==== Sys2Proof/Laws/Exec.lean ====
section
/-! SUPPORT. Each operation's next state in terms of the shared operations, what a list of inputs does from its first
input on, and where FG's step goes from each kind of position. -/

namespace Sys2Proof.Machine

section exec
variable (s : State)

theorem exec_rx_armed (b : Byte) (h : s.block.armed = true) :
    exec (.rx b) s = .next (s.setBlock (((s.block.writeByte s.block.cursor b).setCursor
      (nextAddr s.block.cursor)).setPhase .streaming)) := by
  simp [exec, execRx, execRxWith, h, Block.rxData, Block.storeAtCursor, Block.advanceCursor]

theorem exec_rx_unarmed (b : Byte) (h : s.block.armed = false) :
    exec (.rx b) s = .next (s.setBlock (((s.block.setCursor (addrDecode b)).setArmed true).setPhase
      .addressing)) := by
  simp [exec, execRx, execRxWith, h, Block.rxAddress, addrDecode, specParams]

theorem exec_req : exec .req s = .next ((s.setBlock ((s.block.setCursor (nextAddr s.block.cursor)).setPhase
    (phaseAfterReq s.block.phase))).drive (s.block.readByte s.block.cursor)) := rfl
theorem exec_txEnd : exec .txEnd s = .next (s.setBlock ((s.block.setArmed false).setPhase .idle)) := rfl
theorem exec_ldb (a : Byte) : exec (.ldb a) s = .next (s.deliver (s.block.readByte a)) := rfl
theorem exec_ldcur : exec .ldcur s = .next (s.deliver s.block.cursor) := rfl
theorem exec_ldarm : exec .ldarm s = .next (s.deliver (flagByte s.block.armed)) := rfl
theorem exec_lderr : exec .lderr s = .next (s.deliver (flagByte s.block.cmdError)) := rfl
theorem exec_stmb (d : Byte) : exec (.stmb d) s = .next (s.setBlock (s.block.writeByte 0 d)) := rfl
theorem exec_clrcur : exec .clrcur s = .next (s.setBlock (s.block.setCursor 0)) := rfl
theorem exec_stbh : exec .stbh s = .next (s.setBlock (s.block.setStrobe true)) := rfl
theorem exec_stbl : exec .stbl s = .next (s.setBlock (s.block.setStrobe false)) := rfl
theorem exec_seterr :
    exec .seterr s = .next ((s.setBlock (s.block.setCmdError true)).raiseEvent .cmdTimeout) := rfl
theorem exec_clrerr : exec .clrerr s = .next (s.setBlock (s.block.setCmdError false)) := rfl
theorem exec_delay : exec .delay s = .next s := rfl
theorem exec_reset : exec .reset s = .next ((s.setBlock Block.reset).setFgPos (.boot .driveStrobe)) := rfl

end exec

section execWith
variable (p : Params) (s : State)

/-- The machine's own operations are those under the spec's parameters. -/
@[simp] theorem execWith_specParams (i : Instr) : execWith specParams i s = exec i s := by cases i <;> rfl

/-- Only RX and RESET depend on a parameter. -/
theorem execWith_eq_exec {i : Instr} (hx : ∀ b, i ≠ .rx b) (hr : i ≠ .reset) : execWith p i s = exec i s := by
  cases i with
  | rx b => exact absurd rfl (hx b)
  | reset => exact absurd rfl hr
  | _ => rfl

/-- No procedure line depends on a parameter through its primitive. -/
@[simp] theorem execWith_procPrimitive (q : ProcLine) : execWith p (procPrimitive q) s = exec (procPrimitive q) s := by
  cases q with
  | send args l => cases l <;> rfl
  | snap kind l => cases l <;> rfl

/-- RX in the data phase does not depend on a parameter. -/
theorem execWith_rx_armed (b : Byte) (h : s.block.armed = true) : execWith p (.rx b) s = exec (.rx b) s := by
  simp [execWith, exec, execRx, execRxWith, h]

theorem execWith_rx_unarmed (b : Byte) (h : s.block.armed = false) :
    execWith p (.rx b) s = .next (s.setBlock (((s.block.setCursor
      (addrDecodeWith p.versionTag Config.payloadBase b)).setArmed true).setPhase .addressing)) := by
  simp [execWith, execRxWith, h, Block.rxAddress]

theorem execWith_reset :
    execWith p .reset s = .next ((s.setBlock (Block.powerUp p)).setFgPos (.boot .driveStrobe)) := rfl

end execWith

section operands
variable (k : Block)

@[simp] theorem Block.storeMailbox_eq (d : Byte) : k.storeMailbox d = k.writeByte 0 d := rfl
@[simp] theorem Block.advanceCursor_eq : k.advanceCursor = k.setCursor (nextAddr k.cursor) := rfl
@[simp] theorem Block.cursorByte_eq : k.cursorByte = k.readByte k.cursor := rfl
@[simp] theorem Block.storeAtCursor_eq (b : Byte) :
    k.storeAtCursor b = (k.writeByte k.cursor b).setCursor (nextAddr k.cursor) := rfl

end operands

/-- The cursor increment as a number (R42). -/
@[simp] theorem toNat_nextAddr (x : Byte) : (nextAddr x).toNat = (x.toNat + 1) % 256 := by
  simp [nextAddr, BitVec.toNat_add]

/-- A status bit read by the foreground is 0 exactly when the bit is 0 (R105, R106). -/
@[simp] theorem flagByte_eq_zero (v : Bool) : flagByte v = 0#8 ↔ v = false := by cases v <;> decide
@[simp] theorem flagByte_eq_one (v : Bool) : flagByte v = 1#8 ↔ v = true := by cases v <;> decide

/-- A step of a procedure whose primitive goes on to t. -/
theorem procStep_of_next {p : Params} {draw : Bool} {q : ProcLine} {s t : State}
    (h : exec (procPrimitive q) s = .next t) :
    procStep p draw q s = .next (t.goTo (procAdvance p draw t.fg.result q)) := by
  simp [procStep, h]

theorem fgStep_proc {p : Params} {draw : Bool} {s : State} {q : ProcLine} (h : s.fg.pos = .proc q) :
    fgStep p draw s = procStep p draw q s := by
  simp [fgStep, h]

theorem fgStep_boot {p : Params} {draw : Bool} {s : State} {b : BootStep} (h : s.fg.pos = .boot b) :
    fgStep p draw s = bootStep p b s := by
  simp [fgStep, h]

theorem fgStep_call {p : Params} {draw : Bool} {s : State} {c : Call} {cs : List Call}
    (h : s.fg.pos = .loop) (hc : s.fg.calls = c :: cs) :
    fgStep p draw s =
      procStep p draw (callEntry p s.block c) ((s.setCalls cs).setBlock (callBlock p s.block c)) := by
  simp [fgStep, h, hc]

/-- A REQ_UPDATE_EFFECT that changes nothing, as the spec's default (R148), leaves a call its arguments and the block. -/
theorem requestUpdate_none {p : Params} (h : ∀ args k, p.reqUpdateEffect args k = (args, k)) (args : SendArgs)
    (k : Block) : requestUpdate p args k = (args, k) := by
  simp [requestUpdate, h]

@[simp] theorem requestUpdate_specParams (args : SendArgs) (k : Block) :
    requestUpdate specParams args k = (args, k) :=
  requestUpdate_none (fun _ _ => rfl) args k

/-- The block a call goes on with, where REQ_UPDATE_EFFECT changes nothing. -/
theorem callBlock_none {p : Params} (h : ∀ args k, p.reqUpdateEffect args k = (args, k)) (k : Block) (c : Call) :
    callBlock p k c = k := by
  cases c <;> simp [callBlock, requestUpdate_none h]

theorem fgStep_idle {p : Params} {draw : Bool} {s : State} (h : s.fg.pos = .loop) (hc : s.fg.calls = []) :
    fgStep p draw s = .next s := by
  simp [fgStep, h, hc]

section goTo
variable (s : State) (n : ProcNext)

@[simp] theorem State.goTo_line (q : ProcLine) : s.goTo (.line q) = s.setFgPos (.proc q) := rfl
@[simp] theorem State.goTo_done (r : ProcReturn) : s.goTo (.done r) = s.procReturn r := rfl
@[simp] theorem State.goTo_block : (s.goTo n).block = s.block := by cases n <;> rfl
@[simp] theorem State.goTo_events : (s.goTo n).events = s.events := by cases n <;> rfl
@[simp] theorem State.goTo_driven : (s.goTo n).driven = s.driven := by cases n <;> rfl
@[simp] theorem State.goTo_schedule : (s.goTo n).schedule = s.schedule := by cases n <;> rfl
@[simp] theorem State.goTo_calls : (s.goTo n).fg.calls = s.fg.calls := by cases n <;> rfl
@[simp] theorem State.goTo_result : (s.goTo n).fg.result = s.fg.result := by cases n <;> rfl

end goTo

/-- A step of a procedure that answers a next state is its line's primitive and then FG's move. -/
theorem procStep_inv {p : Params} {draw : Bool} {q : ProcLine} {s t : State}
    (h : procStep p draw q s = .next t) :
    ∃ u, exec (procPrimitive q) s = .next u ∧ t = u.goTo (procAdvance p draw u.fg.result q) := by
  unfold procStep at h
  split at h <;> cases h
  next u hu => exact ⟨u, execWith_procPrimitive p s q ▸ hu, rfl⟩

/-- What one boot step can do (R182): the position moves on, and the block's strobe may be driven. -/
theorem bootStep_inv {p : Params} {b : BootStep} {s t : State} (h : bootStep p b s = .next t) :
    ∃ k pos, t = (s.setBlock k).setFgPos pos ∧ (k = s.block ∨ k = s.block.setStrobe p.strobeResetLevel) ∧
      ((∃ b', pos = .boot b') ∨ pos = .loop) := by
  cases b <;> simp only [bootStep] at h <;> cases h
  · exact ⟨_, _, rfl, .inr rfl, .inl ⟨_, rfl⟩⟩
  · exact ⟨s.block, _, rfl, .inl rfl, .inl ⟨_, rfl⟩⟩
  · exact ⟨s.block, _, rfl, .inl rfl, .inl ⟨_, rfl⟩⟩
  · exact ⟨s.block, _, rfl, .inl rfl, .inr rfl⟩

/-- What one FG step can do: a boot step; a step of the procedure in progress, or of the call it begins; nothing. -/
theorem fgStep_inv {p : Params} {draw : Bool} {s t : State} (h : fgStep p draw s = .next t) :
    (∃ b, s.fg.pos = .boot b ∧ bootStep p b s = .next t) ∨
    (∃ q s0, procStep p draw q s0 = .next t ∧
      ((s.fg.pos = .proc q ∧ s0 = s) ∨
        (s.fg.pos = .loop ∧ ∃ c cs, s.fg.calls = c :: cs ∧ q = callEntry p s.block c ∧
          s0 = (s.setCalls cs).setBlock (callBlock p s.block c)))) ∨
    (s.fg.pos = .loop ∧ s.fg.calls = [] ∧ t = s) := by
  unfold fgStep at h
  split at h
  · next b hp => exact .inl ⟨b, hp, h⟩
  · next q hp => exact .inr (.inl ⟨q, s, h, .inl ⟨hp, rfl⟩⟩)
  · next c cs hp hc => exact .inr (.inl ⟨_, _, h, .inr ⟨hp, c, cs, hc, rfl, rfl⟩⟩)
  · next hp hc => cases h; exact .inr (.inr ⟨hp, hc, rfl⟩)

theorem runWord_op {p : Params} {w : OpWord} {i : Instr} (h : decodeWord w = .op i) (s : State) :
    runWord p w s = execWith p i s := by
  simp [runWord, h]

/-- The run of a list of inputs whose first input goes on to t. -/
theorem runInputs_cons {p : Params} {x : Input} {xs : List Input} {s t : State}
    (h : runInput p x s = .next t) : runInputs p (x :: xs) s = runInputs p xs t := by
  simp [runInputs, h]

/-- Two runs, one after the other. -/
theorem runInputs_append {p : Params} (xs ys : List Input) {s t : State}
    (h : runInputs p xs s = .next t) : runInputs p (xs ++ ys) s = runInputs p ys t := by
  induction xs generalizing s with
  | nil => simp_all [runInputs]
  | cons x xs ih =>
    simp only [List.cons_append, runInputs] at h ⊢
    cases hx : runInput p x s with
    | next u => rw [hx] at h; exact ih h
    | fault r => rw [hx] at h; cases h
    | refused r => rw [hx] at h; cases h

end Sys2Proof.Machine
end

