-- ==== Sys2Proof/Laws/Packet.lean ====
section
/-! SUPPORT. The bytes a packet read covers: every field of the layout lies between its lowest and its highest byte. -/

namespace Sys2Proof.Machine

theorem foldl_min_le (fs : List PacketField) (m : Nat) :
    fs.foldl (fun n f => min n f.addr) m ≤ m ∧ ∀ f ∈ fs, fs.foldl (fun n f => min n f.addr) m ≤ f.addr := by
  induction fs generalizing m with
  | nil => simp
  | cons g fs ih =>
    obtain ⟨h1, h2⟩ := ih (min m g.addr)
    refine ⟨le_trans h1 (min_le_left _ _), fun f hf => ?_⟩
    rcases List.mem_cons.1 hf with rfl | hf
    · exact le_trans h1 (min_le_right _ _)
    · exact h2 f hf

theorem le_foldl_max (fs : List PacketField) (m : Nat) :
    m ≤ fs.foldl (fun n f => max n (f.addr + f.width)) m ∧
      ∀ f ∈ fs, f.addr + f.width ≤ fs.foldl (fun n f => max n (f.addr + f.width)) m := by
  induction fs generalizing m with
  | nil => simp
  | cons g fs ih =>
    obtain ⟨h1, h2⟩ := ih (max m (g.addr + g.width))
    refine ⟨le_trans (le_max_left _ _) h1, fun f hf => ?_⟩
    rcases List.mem_cons.1 hf with rfl | hf
    · exact le_trans (le_max_right _ _) h1
    · exact h2 f hf

/-- No field lies below the address where the packet read begins. -/
theorem packetBase_le {lay : PacketLayout} {f : PacketField} (h : f ∈ layoutFields lay) : packetBase lay ≤ f.addr :=
  (foldl_min_le _ _).2 f h

/-- No field reaches beyond the fixed part of the packet read. -/
theorem le_packetEnd {lay : PacketLayout} {f : PacketField} (h : f ∈ layoutFields lay) :
    f.addr + f.width ≤ packetEnd lay :=
  (le_foldl_max _ _).2 f h

/-- The reference layout reads 0x01 to 0x1C (R110). -/
@[simp] theorem packetBase_reference : packetBase Config.packetLayout = 1 := by decide
@[simp] theorem packetFixedLength_reference : packetFixedLength Config.packetLayout = 28 := by decide

end Sys2Proof.Machine
end

