-- ==== Sys2Proof/Laws/PerInstr.lean ====
section
/-! SUPPORT. Per operation: the word the encoder writes passes the check of R63 and R64, and its class field is the
code of the agent that may execute the operation (R60, R169). -/

namespace Sys2Proof.Laws.WordForm

/-- What is said of every operation's word. -/
def Statement (i : Instr) : Prop :=
  wellFormedWord (encode i) = true ∧ clsField (encode i) = classCode (agentOf i)

theorem rx (b : Byte) : Statement (.rx b) := by
  revert b; unfold Statement; decide
theorem req : Statement .req := by unfold Statement; decide
theorem txEnd : Statement .txEnd := by unfold Statement; decide
theorem ldb (a : Byte) : Statement (.ldb a) := by
  revert a; unfold Statement; decide
theorem ldcur : Statement .ldcur := by unfold Statement; decide
theorem ldarm : Statement .ldarm := by unfold Statement; decide
theorem lderr : Statement .lderr := by unfold Statement; decide
theorem stmb (d : Byte) : Statement (.stmb d) := by
  revert d; unfold Statement; decide
theorem clrcur : Statement .clrcur := by unfold Statement; decide
theorem stbh : Statement .stbh := by unfold Statement; decide
theorem stbl : Statement .stbl := by unfold Statement; decide
theorem seterr : Statement .seterr := by unfold Statement; decide
theorem clrerr : Statement .clrerr := by unfold Statement; decide
theorem delay : Statement .delay := by unfold Statement; decide
theorem reset : Statement .reset := by unfold Statement; decide

end Sys2Proof.Laws.WordForm
end

