-- ==== Sys2Proof/Laws/Safety.lean ====
section
/-! SUPPORT. The small lemmas of the terms that claims use. -/

namespace Sys2Proof.Safety

open Sys2Proof.Machine

@[simp] theorem fgTurns_nil : fgTurns [] = 0 := rfl
@[simp] theorem fgTurns_fg (d : Bool) (xs : List Input) : fgTurns (.fg d :: xs) = fgTurns xs + 1 := rfl
@[simp] theorem fgTurns_word (w : OpWord) (xs : List Input) : fgTurns (.word w :: xs) = fgTurns xs := rfl
@[simp] theorem fgTurns_timer (xs : List Input) : fgTurns (.timer :: xs) = fgTurns xs := rfl

@[simp] theorem fgTurns_replicate (n : Nat) (d : Bool) : fgTurns (List.replicate n (.fg d)) = n := by
  induction n with
  | zero => rfl
  | succ n ih => simp [List.replicate_succ, ih]

@[simp] theorem fgTurns_append (xs ys : List Input) : fgTurns (xs ++ ys) = fgTurns xs + fgTurns ys := by
  induction xs with
  | nil => simp
  | cons x xs ih =>
    cases x with
    | fg d => rw [List.cons_append, fgTurns_fg, fgTurns_fg, ih]; omega
    | word w => simpa using ih
    | timer => simpa using ih

/-- A word at the head of a list without RESET spells an operation that is not RESET; the rest is without RESET too. -/
theorem NoReset.cons {x : Input} {xs : List Input} (h : NoReset (x :: xs)) :
    NoReset xs ∧ ∀ w, x = .word w → ∃ i, decodeWord w = .op i ∧ i ≠ .reset :=
  ⟨fun w hw => h w (List.mem_cons_of_mem _ hw), fun w hx => h w (by simp [hx])⟩

end Sys2Proof.Safety
end

