-- ==== Sys2Proof/Tests/Slice0.lean ====
section
/-! SUPPORT. The model's own tests: ill-formed words, words written out from the encoding, vectors of
95_test_vectors.md (V-...), and one witness for the hypotheses of each statement that has some. -/

namespace Sys2Proof.Tests

open Sys2Proof.Machine Sys2Proof.Safety

/-! ### Words -/

/-- One ill-formed word for each check of R63 and R64. -/
theorem test_reserved_class : classAssigned 0x8000 = false ∧ wellFormedWord 0x8000 = false := by decide
theorem test_reserved_op : opAssigned 0x1300 = false ∧ wellFormedWord 0x1300 = false := by decide
theorem test_operand_not_allowed : operandAllowed 0x1101 = false ∧ wellFormedWord 0x1101 = false := by decide
theorem test_pseudo_count : pseudoAllowed (.read 0) = false ∧ pseudoAllowed (.snap 0 0) = false := by decide

/-- Each constructor's word, written out as cls ++ op ++ imm8 (R60, R62). -/
theorem test_word_rx : decodeWord 0b0001_0000_00000010 = .op (.rx 0x02) := by decide
theorem test_word_req : decodeWord 0b0001_0001_00000000 = .op .req := by decide
theorem test_word_end : decodeWord 0b0001_0010_00000000 = .op .txEnd := by decide
theorem test_word_ldb : decodeWord 0b0010_0000_10101011 = .op (.ldb 0xAB) := by decide
theorem test_word_ldcur : decodeWord 0b0010_0001_00000000 = .op .ldcur := by decide
theorem test_word_ldarm : decodeWord 0b0010_0010_00000000 = .op .ldarm := by decide
theorem test_word_lderr : decodeWord 0b0010_0011_00000000 = .op .lderr := by decide
theorem test_word_stmb : decodeWord 0b0011_0000_01000001 = .op (.stmb 0x41) := by decide
theorem test_word_clrcur : decodeWord 0b0011_0001_00000000 = .op .clrcur := by decide
theorem test_word_stbh : decodeWord 0b0011_0010_00000000 = .op .stbh := by decide
theorem test_word_stbl : decodeWord 0b0011_0011_00000000 = .op .stbl := by decide
theorem test_word_seterr : decodeWord 0b0011_0100_00000000 = .op .seterr := by decide
theorem test_word_clrerr : decodeWord 0b0011_0101_00000000 = .op .clrerr := by decide
theorem test_word_delay : decodeWord 0b0011_0110_00000000 = .op .delay := by decide
theorem test_word_reset : decodeWord 0b1111_0000_00000000 = .op .reset := by decide

/-- V-DC4, 5, 7, 10, 11, 13, 14, 15. -/
theorem test_invalid_words :
    [0x1101, 0x1300, 0x2400, 0x3700, 0x0000, 0xF001, 0xF100, 0x8000].all
      (fun w => decodeWord w == .invalid w) = true := by decide

/-- Log 18: a line that holds only an agent prefix is blank. -/
theorem test_assemble_blank : assembleLine "host: ; nothing".toList = some .blank := by decide

/-- R67: the three examples of the syntax. -/
theorem test_assemble_examples :
    assembleLine "host: RX 0x02".toList = some (.op (.rx 0x02)) ∧
      assembleLine "fg: LDB 0x04 ; a comment".toList = some (.op (.ldb 0x04)) ∧
      assembleLine "fg: STMB 0x41".toList = some (.op (.stmb 0x41)) := by decide

/-- R68: the pseudo-operations. -/
theorem test_assemble_pseudo :
    assembleLine "WRITE 0x02, 1, 120".toList = some (.pseudo (.write 0x02 [0x01, 0x78])) ∧
      assembleLine "SEND 0x41, true, false".toList = some (.pseudo (.send ⟨0x41, true, false⟩)) ∧
      assembleLine "SNAP 0x01, 28".toList = some (.pseudo (.snap 0x01 28)) ∧
      expandPseudo (.ptr 0x04) = .ops [.rx 0x04, .txEnd] ∧
      expandPseudo (.read 2) = .ops [.req, .req, .txEnd] := by decide

/-- A byte literal beyond 255, a missing operand and an operand too many are not in the syntax (R67). -/
theorem test_assemble_refuses :
    assembleLine "RX 256".toList = none ∧ assembleLine "RX".toList = none ∧
      assembleLine "REQ 0x00".toList = none := by decide

/-! ### Single steps -/

/-- A state with a given block; FG at its loop, nothing to do. -/
def st (k : Block) : State := { State.reset with block := k }

/-- The same with FG at a line of a procedure. -/
def atLine (k : Block) (q : ProcLine) : State := (st k).setFgPos (.proc q)

/-- The same with a call to make. -/
def calling (k : Block) (c : Call) : State := (st k).setCalls [c]

/-- The same with a schedule. -/
def scheduled (k : Block) (l : List Input) : State := (st k).setSchedule l

/-- The next state, if there is one. -/
def after : Host.Outcome State Fault Refusal → Option State
  | .next s => some s
  | .fault _ => none
  | .refused _ => none

/-- A block from its bytes, cursor and armed. -/
def blk (m : Memory) (c : Byte) (a : Bool) : Block :=
  { Block.reset with bytes := m, cursor := c, armed := a, phase := if a then .streaming else .idle }

/-- Parameters with two polls. -/
def two : Params := { specParams with maxPolls := 2 }

/-- V-RX1. -/
theorem test_rx_tag :
    (after (exec (.rx 0x02) State.reset)).map (·.block) = some ⟨[], 1, true, false, false, .addressing⟩ := by decide
/-- V-RX6. -/
theorem test_rx_wraps :
    (after (exec (.rx 0x7E) (st (blk [] 0xFF true)))).map (fun t => (t.block.bytes, t.block.cursor)) =
      some ([(0xFF, 0x7E)], 0x00) := by decide
/-- V-REQ2. -/
theorem test_req_wraps :
    (after (exec .req (st (blk [(0xFF, 0x9C)] 0xFF false)))).map (fun t => (t.driven, t.block.cursor)) =
      some ([0x9C], 0x00) := by decide
/-- V-REQ3. -/
theorem test_req_armed :
    (after (exec .req (st (blk [(3, 0x44)] 0x03 true)))).map (fun t => (t.driven, t.block.armed)) =
      some ([0x44], true) := by decide
/-- V-END1. -/
theorem test_end :
    (after (exec .txEnd (st (blk [] 0x06 true)))).map (fun t => (t.block.cursor, t.block.armed, t.block.phase)) =
      some (0x06, false, .idle) := by decide
/-- V-LD1, V-LD2. -/
theorem test_ldb :
    (after (exec (.ldb 0x04) (st (blk [(4, 0x78)] 0 false)))).map (·.fg.result) = some 0x78 ∧
      (after (exec (.ldb 0xAB) State.reset)).map (·.fg.result) = some 0x00 := by decide
/-- V-LD3. -/
theorem test_ldcur : (after (exec .ldcur (st (blk [(1, 0x11)] 0x02 false)))).map (·.fg.result) = some 0x02 := by
  decide
/-- V-LD4. -/
theorem test_ldarm : (after (exec .ldarm (st (blk [] 0x01 true)))).map (·.fg.result) = some 0x01 := by decide
/-- V-LD6. -/
theorem test_lderr :
    (after (exec .lderr (st (Block.reset.setCmdError true)))).map (·.fg.result) = some 0x01 := by decide
/-- V-ST2. -/
theorem test_stmb :
    (after (exec (.stmb 0x41) (st (blk [(0, 0x42)] 0x05 true)))).map (fun t => (t.block.bytes, t.block.cursor)) =
      some ([(0, 0x41)], 0x05) := by decide
/-- V-ST3. -/
theorem test_clrcur :
    (after (exec .clrcur (st (blk [] 0x06 true)))).map (fun t => (t.block.cursor, t.block.armed)) =
      some (0, true) := by decide
/-- V-ST4, V-ST5: a rising edge from 0, none from 1. -/
theorem test_stbh :
    (after (exec .stbh State.reset)).map (fun t => risingEdge Block.reset t.block) = some true ∧
      (after (exec .stbh (st (Block.reset.setStrobe true)))).map
        (fun t => (t.block.strobe, risingEdge (Block.reset.setStrobe true) t.block)) = some (true, false) := by
  decide
/-- V-ST6. -/
theorem test_stbl : (after (exec .stbl (st (Block.reset.setStrobe true)))).map (·.block.strobe) = some false := by
  decide
/-- V-ST9. -/
theorem test_seterr_again :
    (after (exec .seterr { st (Block.reset.setCmdError true) with events := [.cmdTimeout] })).map
      (fun t => (t.block.cmdError, t.events)) = some (true, [.cmdTimeout, .cmdTimeout]) := by decide
/-- V-ST10. -/
theorem test_clrerr : (after (exec .clrerr (st (Block.reset.setCmdError true)))).map (·.block.cmdError) = some false := by
  decide
/-- V-ST11. -/
theorem test_delay : after (exec .delay (st (blk [(7, 1)] 9 true))) = some (st (blk [(7, 1)] 9 true)) := by decide
/-- V-RS1, V-RS2. -/
theorem test_reset :
    (after (exec .reset (st ⟨[(0, 0x41), (7, 0x99)], 0x40, true, true, true, .streaming⟩))).map (·.block) =
      some Block.reset ∧
    (after (exec .req State.reset)).map (fun t => (t.driven, t.block.cursor)) = some ([0x00], 0x01) := by decide

/-- A word at the head of the schedule runs as the first operation after reset. -/
theorem test_fetch_word : (after (step (State.reset.withFetchWord 16 0x1010))).map (·.block.cursor) = some 0x10 := by
  decide
/-- A write of 0x00 leaves no cell, and a write keeps the rising order (R21). -/
theorem test_memory_form :
    Memory.write [(3, 7), (9, 1)] 3 0 = [(9, 1)] ∧ Memory.write [(3, 7), (9, 1)] 5 2 = [(3, 7), (5, 2), (9, 1)] := by
  decide

/-! ### Procedures, view and framing -/

/-- V-SN4: a torn snapshot is OK([00, 22]) although the region holds [11, 22]. -/
theorem test_torn_snapshot :
    (after (runInputs two [.fg false, .fg false, .word 0x1002, .word 0x1011, .word 0x1022, .word 0x1200, .fg false,
      .fg false] (calling Block.reset (.snap 0x01 2)))).map (fun t => (t.fg.returns, t.block.bytes)) =
      some ([.snapshot .region (some [0x00, 0x22])], [(1, 0x11), (2, 0x22)]) := by decide
/-- V-SN3: SKIP by the second check. -/
theorem test_snapshot_skip :
    (after (runInputs two [.fg false, .fg false, .word 0x1002, .fg false, .fg false]
      (calling Block.reset (.snap 0x01 2)))).map (·.fg.returns) = some [.snapshot .region none] := by decide
/-- V-SC4: false success from a status write. -/
theorem test_send_false_success :
    (after (runInputs two [.fg false, .fg false, .fg false, .fg false, .word 0x1002, .fg false]
      (calling Block.reset (.send ⟨0x41, false, false⟩)))).map (fun t => (t.fg.returns, t.block)) =
      some ([.sent .success], ⟨[(0, 0x41)], 1, true, true, false, .addressing⟩) := by decide
/-- V-SC8: an early draw ends step 4 at its first failing poll. -/
theorem test_send_early_draw :
    (after (runInputs { specParams with maxPolls := 100 } [.fg false, .fg false, .fg false, .fg false, .fg true, .fg false, .fg false]
      (calling Block.reset (.send ⟨0x41, true, false⟩)))).map
        (fun t => (t.fg.returns, t.block.cmdError, t.block.strobe)) =
      some ([.sent .failure], true, false) := by decide
/-- D10: with PRE_WAIT_TIMEOUT_ACTION = fail the step-1 timeout returns FAILURE and places nothing. -/
theorem test_send_prewait_fail :
    (after (runInputs { specParams with maxPolls := 1, preWait := .fail } [.fg false, .fg false] (calling (blk [] 5 true) (.send ⟨0x41, true, false⟩)))).map
      (fun t => (t.fg.returns, t.block.bytes)) = some ([.sent .failure], []) := by decide

/-- V-F1 to V-F3. -/
theorem test_spindle_rpm :
    [[0xE8, 0x03, 0x00, 0x00], [0x18, 0xFC, 0xFF, 0xFF], [0x00, 0x00, 0x00, 0x80]].map
      (fun bs => readAs 4 .signed (assembleBytes .little bs)) =
      [.signed 1000, .signed (-1000), .signed (-2147483648)] := by decide
/-- V-F4: 1.0 is 2^23 * 2^-23. -/
theorem test_binary32_one :
    readAs 4 .binary32 (assembleBytes .little [0x00, 0x00, 0x80, 0x3F]) = .binary32 (.finite false 8388608 (-23)) := by
  decide
/-- V-F5, V-F6, V-F7. -/
theorem test_axis :
    axisOf (floatField 0x7FC00000) = .absent ∧ axisOf (floatField 0xFF800001) = .absent ∧
      axisOf (floatField 0x7F800000) = .present ⟨0x7F800000, .binary32 (.infinity false)⟩ := by decide
/-- V-F10 to V-F15. -/
theorem test_msg_ctl :
    [0x00, 0x05, 0x7F, 0x80, 0xFC, 0xFD, 0xFE, 0xFF].map classifyMsgCtl =
      [.noMessage, .length 5, .length 127, .reserved 0x80, .reserved 0xFC, .overrides, .offset, .clearMessage] := by
  decide

/-- A layout with status_code below every other field, a speed of two bytes, and the message far off (R8, I9). -/
def otherLayout : PacketLayout :=
  { Config.packetLayout with
    systemState := ⟨0x03, 1, .unsigned⟩, statusCode := ⟨0x02, 1, .unsigned⟩, spindleRpm := ⟨0x06, 2, .signed⟩,
    message := 0x80 }

/-- R8: the read begins at the lowest field, and each field is read in its own width: FF FE is -257 in two bytes. -/
theorem test_other_layout :
    packetBase otherLayout = 0x02 ∧ packetFixedLength otherLayout = 27 ∧
      (decodePacket otherLayout .little ([0x11, 0x22, 0, 0, 0xFF, 0xFE] ++ List.replicate 21 0)).map
        (fun pk => (pk.statusCode.raw, pk.systemState.raw, pk.spindleRpm.reading)) =
        some (0x11, 0x22, .signed (-257)) := by decide
/-- R8: the message is read from the layout's address for it. -/
theorem test_other_message :
    snapAdvance { specParams with packetLayout := otherLayout } .packet 0x02
      (.readByte 0x1C 1 (List.replicate 26 0)) =
      .line (.snap .packet (.readByte 0x80 2 (List.replicate 26 0 ++ [0x02]))) := by decide
/-- R76: START W a Sr R d1 d2 STOP. -/
theorem test_register_access :
    frameEvents 0x2A .free [.start, .address 0x2A false, .hostWrites 0x04, .start, .address 0x2A true,
      .hostReads true, .hostReads false, .stop] = [.rx 0x04, .txEnd, .req, .req, .txEnd] := by decide
/-- R74: the grammar refuses REQ while armed (R75). -/
theorem test_not_legal : i2cLegalCheck [.rx 0x04, .req, .txEnd] = false := by decide
/-- The model's choice (log 25): two ENDs in a row, as the activity of two address-only transfers gives them (R71), are
legal by the grammar of R74, against the words of R75. -/
theorem test_two_ends_legal :
    frameEvents 0x2A .free [.start, .address 0x2A false, .stop, .start, .address 0x2A false, .stop] =
      [.txEnd, .txEnd] ∧ i2cLegalCheck [.txEnd, .txEnd] = true := by decide
/-- R72: the block acknowledges its address and HOST's data bytes, and no other address. -/
theorem test_acknowledge :
    blockAcks 0x2A .started (.address 0x2A false) = true ∧ blockAcks 0x2A .writing (.hostWrites 7) = true ∧
      blockAcks 0x2A .started (.address 0x2B true) = false := by decide

/-! ### Witnesses: for each statement with hypotheses, a state and operands that meet them together -/

theorem witness_EncodeOfDecode : decodeWord 0x30FF = .op (.stmb 0xFF) := by decide
/-- Each clause at a boundary word, and the valid words next to them. -/
theorem witness_ReservedWords :
    [0x0FFF, 0x4000, 0xEFFF, 0x1300, 0x2400, 0x3700, 0xF100, 0xF001, 0x1101, 0x2301, 0x3601].all
      (fun w => decodeWord w == .invalid w) = true ∧
    [0x1000, 0x1200, 0x2300, 0x3600, 0xF000].all (fun w => decodeWord w != .invalid w) = true := by decide
theorem witness_StepRunsDecodedOperation :
    (scheduled Block.reset [.word 0x1100]).schedule = .word 0x1100 :: [] ∧ decodeWord 0x1100 = .op .req := by decide
theorem witness_StepRunsForegroundTimerAndWaits :
    (scheduled Block.reset [.fg true, .timer]).schedule = .fg true :: [.timer] ∧
      (scheduled Block.reset [.timer]).schedule = .timer :: [] ∧ State.reset.schedule = [] := by decide
/-- The stop clause: a word that spells nothing is refused. -/
theorem witness_StepStopsOnlyOnInvalidWord :
    (scheduled Block.reset [.word 0x1101]).schedule = .word 0x1101 :: [] ∧ decodeWord 0x1101 = .invalid 0x1101 ∧
      step (scheduled Block.reset [.word 0x1101]) = .refused (.invalidWord 0x1101) :=
  ⟨rfl, by decide, rfl⟩
theorem witness_RxAddressPhase : State.reset.block.armed = false := by decide
/-- The second clause: a bus event that changes byte 5. -/
theorem witness_RxDataPhase :
    (st (blk [] 0xFF true)).block.armed = true ∧ agentOf (.rx 0x02) = .busEvent ∧
      (∃ t, exec (.rx 0x02) (st (blk [] 5 true)) = .next t ∧ ¬ SameBytes (blk [] 5 true) t.block) :=
  ⟨by decide, by decide, _, rfl, fun h => absurd (h 5) (by decide)⟩
/-- Another VERSION_TAG and STROBE_RESET_LEVEL than the spec's, an unarmed and an armed block; and the spec's two. -/
theorem witness_OperationsUnderEveryParameter :
    (after (execWith { specParams with versionTag := 0xA5 } (.rx 0xA5) State.reset)).map (·.block.cursor) =
        some 0x01 ∧
      (after (execWith { specParams with versionTag := 0xA5 } (.rx 0x02) State.reset)).map (·.block.cursor) =
        some 0x02 ∧
      (after (execWith { specParams with strobeResetLevel := true } .reset State.reset)).map (·.block.strobe) =
        some true ∧
      State.reset.block.armed = false ∧ (blk [] 5 true).armed = true ∧ (∀ b, Instr.req ≠ .rx b) ∧
      Instr.req ≠ .reset ∧ specParams.versionTag = 0x02 ∧ specParams.strobeResetLevel = false := by decide
theorem witness_BusEvents : agentOf (.rx 0) = .busEvent ∧ agentOf .req = .busEvent ∧ agentOf .txEnd = .busEvent := by
  decide
/-- Each of the four reads. -/
theorem witness_ForegroundReads :
    (0x200B : OpWord) &&& 0xFF00 = 0x2000 ∧ (0x78 : Byte) = (st (blk [(255, 0x78)] 2 true)).block.readByte 255 ∧
      (0x02 : Byte) = (st (blk [] 2 true)).block.cursor ∧
      (0x01 : Byte) = (if (st (blk [] 2 true)).block.armed then 1 else 0) ∧
      (0x00 : Byte) = (if (st (blk [] 2 true)).block.cmdError then 1 else 0) := by decide
theorem witness_Stmb : (0x30FF : OpWord) &&& 0xFF00 = 0x3000 := by decide
theorem witness_Clrcur :
    agentOf .clrcur = .fgWrite ∧
      (after (exec .clrcur (st (blk [] 6 true)))).map (fun t => t.block.cursor != 6) = some true ∧
      (st (blk [] 6 true)).block.armed = true := by decide
theorem witness_Strobe : (Instr.stbh = .stbh ∧ true = true) ∧ (Instr.stbl = .stbl ∧ false = false) := by decide
theorem witness_CommandErrorOperations :
    (st (Block.reset.setCmdError true)).block.cmdError = true ∧
      (after (exec .clrerr (st (Block.reset.setCmdError true)))).map (·.block.cmdError) = some false := by decide
theorem witness_StepKeepsRegionFormAndPhase :
    ∃ t, BlockInv (scheduled (blk [(255, 7)] 255 true) [.word 0x1009]) ∧
      step (scheduled (blk [(255, 7)] 255 true) [.word 0x1009]) = .next t :=
  ⟨_, ⟨by decide, by decide⟩, rfl⟩
theorem witness_StepKeepsPollCountersBounded :
    ∃ t, PollCountersBounded specParams
        ((atLine Block.reset (.send ⟨1, true, false⟩ (.poll 0))).setSchedule [.word 0x1100]) ∧
      step ((atLine Block.reset (.send ⟨1, true, false⟩ (.poll 0))).setSchedule [.word 0x1100]) = .next t := by
  refine ⟨_, fun args l h => ?_, rfl⟩
  cases h
  exact Nat.succ_pos _
/-- A change of each piece of state that the table speaks of: byte 255, byte 0, cursor, armed up and down, strobe and
cmd_error. -/
theorem witness_OnlyTheNamedWritersWrite :
    (after (exec (.rx 9) (st (blk [] 255 true)))).map (·.block.readByte 255) = some 9 ∧
      (after (exec (.stmb 9) State.reset)).map (·.block.readByte 0) = some 9 ∧
      (after (exec .req (st (blk [] 255 false)))).map (·.block.cursor) = some 0 ∧
      (after (exec (.rx 0) State.reset)).map (·.block.armed) = some true ∧
      (after (exec .txEnd (st (blk [] 0 true)))).map (·.block.armed) = some false ∧
      (after (exec .stbh State.reset)).map (·.block.strobe) = some true ∧
      (after (exec .seterr State.reset)).map (·.block.cmdError) = some true := by decide
/-- A row of each phase before: the hypothesis holds of states in all three. -/
theorem witness_PhaseFollowsTheTable :
    ((blk [] 0 false).phase = .idle ↔ (blk [] 0 false).armed = false) ∧
      ((blk [] 0 true).phase = .idle ↔ (blk [] 0 true).armed = false) ∧
      (((blk [] 0 true).setPhase .addressing).phase = .idle ↔
        ((blk [] 0 true).setPhase .addressing).armed = false) := by decide
theorem witness_CommandErrorStaysUntilCleared :
    (after (step (scheduled (Block.reset.setCmdError true) [.word 0x3500]))).map (·.block.cmdError) = some false ∧
      (after (step (scheduled Block.reset [.word 0x3400]))).map (·.events) = some [.cmdTimeout] := by decide
theorem witness_ForegroundOperationsAreIdempotent : agentOf .lderr = .fgRead ∧ agentOf .seterr = .fgWrite := by decide
theorem witness_CanonicalRegions :
    Memory.wf [(0, 1), (255, 2)] ∧
      ∀ a : Byte, Memory.read [(0, 1), (255, 2)] a.toNat = Memory.read (Memory.write [(255, 2)] 0 1) a.toNat := by
  decide
/-- The clauses at their boundaries: a last write to an address, and an address not reached. -/
theorem witness_DataBytesWalkTheRegion :
    (blk [] 255 true).armed = true ∧ ([1, 2] : List Byte)[1]? = some 2 ∧ ([1, 2] : List Byte).length ≤ 1 + 256 ∧
      ∀ k, k < ([1, 2] : List Byte).length → ((255 : Byte).toNat + k) % 256 ≠ (1 : Byte).toNat := by decide
theorem witness_PointerThenRead : State.reset.block.armed = false := by decide
theorem witness_AddressDecoder : Config.versionTag ≠ Config.payloadBase ∧ State.reset.block.armed = false := by decide
/-- The three lines of the wait, and every way out of the second. -/
theorem witness_PreconditionWaitLines :
    (atLine Block.reset (.send ⟨1, true, false⟩ (.preArmed 0))).fg.pos =
        .proc (.send ⟨1, true, false⟩ (.preArmed 0)) ∧
      (after (fgStep two false (atLine (blk [] 0 true) (.send ⟨1, true, false⟩ (.preCursor 0))))).map (·.fg.pos) =
        some (.proc (.send ⟨1, true, false⟩ .place)) ∧
      (after (fgStep two false (atLine (blk [] 5 true) (.send ⟨1, true, false⟩ (.preCursor 0))))).map (·.fg.pos) =
        some (.proc (.send ⟨1, true, false⟩ (.preDelay 1))) ∧
      (after (fgStep two false (atLine (blk [] 5 true) (.send ⟨1, true, false⟩ (.preCursor 1))))).map (·.fg.pos) =
        some (.proc (.send ⟨1, true, false⟩ .place)) ∧
      (after (fgStep { two with preWait := .fail } true (atLine (blk [] 5 true) (.send ⟨1, true, false⟩ (.preCursor 0))))).map
        (·.fg.pos) = some .loop ∧
      (after (fgStep two true (atLine (blk [] 5 true) (.send ⟨1, true, false⟩ (.preDelay 1))))).map (·.fg.pos) =
        some (.proc (.send ⟨1, true, false⟩ (.preArmed 1))) := by decide
theorem witness_CommandIsPlaced :
    (atLine (blk [(0, 7)] 9 true) (.send ⟨1, true, false⟩ .place)).fg.pos =
      .proc (.send ⟨1, true, false⟩ .place) := by decide
/-- A poll that succeeds with and without step 6, a failing one that sleeps, and the last one. -/
theorem witness_ConsumptionPollLine :
    (after (fgStep two false (atLine (blk [] 1 false) (.send ⟨1, true, false⟩ (.poll 0))))).map (·.fg.pos) =
        some (.proc (.send ⟨1, true, false⟩ (.lowerStrobe .success))) ∧
      (after (fgStep two false (atLine (blk [] 1 false) (.send ⟨1, false, false⟩ (.poll 0))))).map (·.fg.returns) =
        some [.sent .success] ∧
      (after (fgStep two false (atLine (blk [] 0 false) (.send ⟨1, true, false⟩ (.poll 0))))).map (·.fg.pos) =
        some (.proc (.send ⟨1, true, false⟩ (.pollDelay 1))) ∧
      (after (fgStep two false (atLine (blk [] 0 false) (.send ⟨1, true, false⟩ (.poll 1))))).map (·.fg.pos) =
        some (.proc (.send ⟨1, true, false⟩ .report)) := by decide
theorem witness_TimeoutReportAndStrobeLines :
    (atLine Block.reset (.send ⟨1, true, false⟩ .report)).fg.pos = .proc (.send ⟨1, true, false⟩ .report) ∧
      (atLine Block.reset (.send ⟨1, true, false⟩ (.lowerStrobe .failure))).fg.pos =
        .proc (.send ⟨1, true, false⟩ (.lowerStrobe .failure)) := by decide
/-- One poll, a host that keeps a write open, and a bus event between two FG steps. -/
theorem witness_SendCommandTerminates :
    0 < ({ specParams with maxPolls := 1 } : Params).maxPolls ∧
      (calling (blk [] 5 true) (.send ⟨1, true, false⟩)).fg.pos = .loop ∧
      (calling (blk [] 5 true) (.send ⟨1, true, false⟩)).fg.calls = [.send ⟨1, true, false⟩] ∧
      NoReset (.fg true :: .word 0x1044 :: List.replicate 7 (.fg false)) ∧
      5 * 1 + 3 ≤ fgTurns (.fg true :: .word 0x1044 :: List.replicate 7 (.fg false)) := by
  refine ⟨by decide, by decide, by decide, fun w h => ?_, by decide⟩
  have hw : w = 0x1044 := by simpa using h
  subst hw
  exact ⟨.rx 0x44, by decide, by decide⟩
/-- Unarmed, armed at cursor 0, and V-SC7's open write. -/
theorem witness_SilentHostTimesOut :
    0 < two.maxPolls ∧ (calling Block.reset (.send ⟨0x42, false, false⟩)).fg.pos = .loop ∧
      (calling Block.reset (.send ⟨0x42, false, false⟩)).fg.calls = .send ⟨0x42, false, false⟩ :: [] ∧
      two.preWait = .proceed ∧ Block.reset.armed = false ∧ (blk [] 0 true).cursor = 0 ∧
      (blk [] 5 true).armed = true ∧ (blk [] 5 true).cursor ≠ 0 ∧ NoUpdateEffect two :=
  ⟨by decide, by decide, by decide, rfl, by decide, by decide, by decide, by decide, fun _ _ => rfl⟩
theorem witness_ReadMailboxGivesSuccess :
    (atLine Block.reset (.send ⟨0x41, false, true⟩ .place)).fg.pos = .proc (.send ⟨0x41, false, true⟩ .place) ∧
      (⟨0x41, false, true⟩ : SendArgs).clr = false := by decide
/-- Armed or not. -/
theorem witness_SecondCommandOverwrites :
    (calling (blk [(0, 0x42)] 0 true) (.send ⟨0x43, true, false⟩)).fg.pos = .loop ∧
      (calling (blk [(0, 0x42)] 0 true) (.send ⟨0x43, true, false⟩)).fg.calls = .send ⟨0x43, true, false⟩ :: [] ∧
      (blk [(0, 0x42)] 0 true).cursor = 0 ∧ (blk [(0, 0x42)] 0 false).cursor = 0 ∧ NoUpdateEffect two :=
  ⟨by decide, by decide, by decide, by decide, fun _ _ => rfl⟩
/-- The three clauses: cursor 0, cursor 0 while armed, and not armed. -/
theorem witness_EventsBetween :
    (atLine (blk [] 0 true) (.send ⟨0x41, true, false⟩ .place)).fg.pos = .proc (.send ⟨0x41, true, false⟩ .place) ∧
      (blk [] 0 true).cursor = 0 ∧ (blk [] 0 true).armed = true ∧ (blk [] 0 false).armed = false := by decide
theorem witness_StatusWriteGivesFalseSuccess :
    (atLine Block.reset (.send ⟨0x41, false, false⟩ (.poll 0))).fg.pos =
        .proc (.send ⟨0x41, false, false⟩ (.poll 0)) ∧
      Block.reset.armed = false ∧ (0x02 : Byte) ≠ 0 ∧ (⟨0x41, false, false⟩ : SendArgs).clr = false ∧
      (⟨0x41, true, false⟩ : SendArgs).clr = true := by decide
theorem witness_ConsumptionBackAtZero :
    (atLine Block.reset (.send ⟨0x41, true, false⟩ (.poll 1))).fg.pos =
        .proc (.send ⟨0x41, true, false⟩ (.poll 1)) ∧
      two.versionTag ≠ 0 ∧ Block.reset.armed = false ∧ Block.reset.cursor = 0 ∧ two.maxPolls ≤ 1 + 1 ∧
      ¬ two.maxPolls ≤ 0 + 1 := by decide
theorem witness_QuietSnapshot :
    (calling (blk [(255, 3)] 9 false) (.snap 0xFF 2)).fg.pos = .loop ∧
      (calling (blk [(255, 3)] 9 false) (.snap 0xFF 2)).fg.calls = .snap 0xFF 2 :: [] ∧
      (blk [(255, 3)] 9 false).armed = false ∧ [true, false, false, true].length = 2 + 2 := by decide
/-- Both kinds of read. -/
theorem witness_SnapshotOfArmedBlock :
    (calling (blk [] 1 true) (.snap 1 2)).fg.calls = .snap 1 2 :: [] ∧
      (calling (blk [] 1 true) .readPacket).fg.calls = .readPacket :: [] ∧ (blk [] 1 true).armed = true ∧
      (calling (blk [] 1 true) .readPacket).fg.pos = .loop := by decide
/-- Of both kinds of read. -/
theorem witness_SnapshotNeverBlocks :
    (calling (blk [] 1 true) (.snap 1 2)).fg.pos = .loop ∧
      (calling (blk [] 1 true) (.snap 1 2)).fg.calls = .snap 1 2 :: [] ∧
      NoReset [.fg false, .word 0x1200, .fg false, .fg false, .timer, .fg false] ∧
      2 + 2 ≤ fgTurns [.fg false, .word 0x1200, .fg false, .fg false, .timer, .fg false] ∧
      two.packetLayout = Config.packetLayout ∧ (calling (blk [] 1 true) .readPacket).fg.pos = .loop ∧
      (calling (blk [] 1 true) .readPacket).fg.calls = .readPacket :: [] ∧
      NoReset (List.replicate 157 (.fg true)) ∧ 28 + 127 + 2 ≤ fgTurns (List.replicate 157 (.fg true)) := by
  refine ⟨by decide, by decide, fun w h => ?_, by decide, rfl, by decide, by decide, fun w h => ?_, by simp⟩
  · have hw : w = 0x1200 := by simpa using h
    subst hw
    exact ⟨.txEnd, by decide, by decide⟩
  · simp at h
/-- The three kinds of line, the last byte among them; and of read_packet the bytes before msg_ctl, msg_ctl with and
without a message, and both checks. -/
theorem witness_SnapshotLines :
    (after (fgStep two false (atLine Block.reset (.snap .region (.firstCheck 7 1))))).map (·.fg.pos) =
        some (.proc (.snap .region (.readByte 7 1 []))) ∧
      (after (fgStep two false (atLine Block.reset (.snap .region (.readByte 7 1 []))))).map (·.fg.pos) =
        some (.proc (.snap .region (.lastCheck [0]))) ∧
      (after (fgStep two false (atLine Block.reset (.snap .region (.lastCheck [0]))))).map (·.fg.returns) =
        some [.snapshot .region (some [0])] ∧
      (after (fgStep two false (atLine (blk [] 7 true) (.snap .packet (.firstCheck 1 28))))).map (·.fg.returns) =
        some [.snapshot .packet none] ∧
      (after (fgStep two false (atLine Block.reset (.snap .packet (.readByte 1 28 []))))).map (·.fg.pos) =
        some (.proc (.snap .packet (.readByte 2 27 [0]))) ∧
      (after (fgStep two false (atLine (blk [(0x1C, 0x7F)] 0 false)
        (.snap .packet (.readByte 0x1C 1 (List.replicate 27 0)))))).map (·.fg.pos) =
        some (.proc (.snap .packet (.readByte 0x1D 127 (List.replicate 27 0 ++ [0x7F])))) ∧
      (after (fgStep two false (atLine (blk [(0x1C, 0x80)] 0 false)
        (.snap .packet (.readByte 0x1C 1 (List.replicate 27 0)))))).map (·.fg.pos) =
        some (.proc (.snap .packet (.lastCheck (List.replicate 27 0 ++ [0x80])))) ∧
      (after (fgStep two false (atLine (blk [] 7 true) (.snap .packet (.lastCheck [0]))))).map (·.fg.returns) =
        some [.snapshot .packet none] := by decide
/-- A message of 127 bytes and a reserved msg_ctl. -/
theorem witness_QuietPacketRead :
    two.packetLayout = Config.packetLayout ∧
      (calling (blk [(0x1C, 0x7F)] 0 false) .readPacket).fg.calls = .readPacket :: [] ∧
      (if ((blk [(0x1C, 0x7F)] 0 false).readByte 0x1C).toNat ≤ 127
        then ((blk [(0x1C, 0x7F)] 0 false).readByte 0x1C).toNat else 0) = 127 ∧
      (if ((blk [(0x1C, 0x80)] 0 false).readByte 0x1C).toNat ≤ 127
        then ((blk [(0x1C, 0x80)] 0 false).readByte 0x1C).toNat else 0) = 0 ∧
      (List.replicate 157 true).length = 127 + 30 :=
  ⟨rfl, by decide, by decide, by decide, by simp⟩
theorem witness_PacketFields :
    28 ≤ (List.replicate 28 (0x05 : Byte)).length ∧ (∀ k, k < 28 → (List.replicate 28 (0x05 : Byte))[k]? = some 0x05) ∧
      0x05050505 = (0x05 : Byte).toNat + 256 * (0x05 : Byte).toNat + 65536 * (0x05 : Byte).toNat +
        16777216 * (0x05 : Byte).toNat ∧
      otherLayout.spindleRpm ∈ layoutFields otherLayout := by decide
/-- A NaN, a value that is none, and the two infinities. -/
theorem witness_AxisIsAbsent :
    axisOf (floatField 0x7F800001) = .absent ∧ axisOf (floatField 0x3F800000) ≠ .absent ∧
      (0x7F800000 : BitVec 32).toNat % 2 ^ 31 = 0x7F800000 ∧
      (0xFF800000 : BitVec 32).toNat % 2 ^ 31 = 0x7F800000 := by decide
/-- Each row of the table at its boundaries. -/
theorem witness_MessageControlTable :
    ([0, 1, 127, 128, 252, 253, 254, 255] : List Byte).all
      (fun c => (List.replicate 27 (0 : Byte) ++ [c])[27]? == some c) = true := by decide
/-- Both sides of the suppression. -/
theorem witness_NoHost :
    28 ≤ (List.replicate 28 (0x05 : Byte)).length ∧
      (List.replicate 28 (0x05 : Byte))[1]?.map BitVec.toNat = some 0x05 ∧
      (List.replicate 28 (0x05 : Byte))[1]?.map BitVec.toNat ≠ some 0x106 := by decide
theorem witness_TransfersBecomeBusEvents : (0x2B : BitVec 7) ≠ 0x2A := by decide
theorem witness_BusActivityIsI2cLegal :
    addressedHere (frameAfter 0x2A .free [.start, .address 0x2A false, .hostWrites 7, .start]) = false := by decide

end Sys2Proof.Tests
end

/-! PROOF. The writers of each piece of state of the block (R31): what an operation can make of the block, said once,
and from it one lemma for each row of the writers table. -/

namespace Sys2Proof.Proofs

open Sys2Proof.Machine

/-- Which blocks an operation can make of which: its rule of R80 to R89, R103 to R106, R130 to R136 or R180, with the
guard of each of the two RX phases. -/
inductive BlockMove : Instr → Block → Block → Prop where
  | rxAddress (b : Byte) (k : Block) (unarmed : k.armed = false) :
      BlockMove (.rx b) k (((k.setCursor (addrDecode b)).setArmed true).setPhase .addressing)
  | rxData (b : Byte) (k : Block) (armed : k.armed = true) :
      BlockMove (.rx b) k (((k.writeByte k.cursor b).setCursor (nextAddr k.cursor)).setPhase .streaming)
  | req (k : Block) : BlockMove .req k ((k.setCursor (nextAddr k.cursor)).setPhase (phaseAfterReq k.phase))
  | txEnd (k : Block) : BlockMove .txEnd k ((k.setArmed false).setPhase .idle)
  | ldb (a : Byte) (k : Block) : BlockMove (.ldb a) k k
  | ldcur (k : Block) : BlockMove .ldcur k k
  | ldarm (k : Block) : BlockMove .ldarm k k
  | lderr (k : Block) : BlockMove .lderr k k
  | stmb (d : Byte) (k : Block) : BlockMove (.stmb d) k (k.writeByte 0 d)
  | clrcur (k : Block) : BlockMove .clrcur k (k.setCursor 0)
  | stbh (k : Block) : BlockMove .stbh k (k.setStrobe true)
  | stbl (k : Block) : BlockMove .stbl k (k.setStrobe false)
  | seterr (k : Block) : BlockMove .seterr k (k.setCmdError true)
  | clrerr (k : Block) : BlockMove .clrerr k (k.setCmdError false)
  | delay (k : Block) : BlockMove .delay k k
  | reset (k : Block) : BlockMove .reset k Block.reset

/-- Every operation answers a next state, and its block comes of the one before by the operation's own rule. -/
theorem exec_moves_block (i : Instr) (s : State) : ∃ t, exec i s = .next t ∧ BlockMove i s.block t.block := by
  cases i with
  | rx b =>
    cases harmed : s.block.armed with
    | false => exact ⟨_, exec_rx_unarmed s b harmed, .rxAddress b _ harmed⟩
    | true => exact ⟨_, exec_rx_armed s b harmed, .rxData b _ harmed⟩
  | req => exact ⟨_, exec_req s, .req _⟩
  | txEnd => exact ⟨_, exec_txEnd s, .txEnd _⟩
  | ldb a => exact ⟨_, exec_ldb s a, .ldb a _⟩
  | ldcur => exact ⟨_, exec_ldcur s, .ldcur _⟩
  | ldarm => exact ⟨_, exec_ldarm s, .ldarm _⟩
  | lderr => exact ⟨_, exec_lderr s, .lderr _⟩
  | stmb d => exact ⟨_, exec_stmb s d, .stmb d _⟩
  | clrcur => exact ⟨_, exec_clrcur s, .clrcur _⟩
  | stbh => exact ⟨_, exec_stbh s, .stbh _⟩
  | stbl => exact ⟨_, exec_stbl s, .stbl _⟩
  | seterr => exact ⟨_, exec_seterr s, .seterr _⟩
  | clrerr => exact ⟨_, exec_clrerr s, .clrerr _⟩
  | delay => exact ⟨_, exec_delay s, .delay _⟩
  | reset => exact ⟨_, exec_reset s, .reset _⟩

theorem blockMove_of_exec {i : Instr} {s t : State} (h : exec i s = .next t) : BlockMove i s.block t.block := by
  obtain ⟨t', ht', hmove⟩ := exec_moves_block i s
  cases ht'.symm.trans h
  exact hmove

/-! In each lemma about a move below, the named cases are the writers of the piece of state; in every other case the operation's rule
leaves the piece as it was. -/

section writers
variable {i : Instr} {k k' : Block}

/-- A write changes no byte but its own. -/
theorem eq_of_readByte_writeByte_ne {a b v : Byte} (h : (k.writeByte a v).readByte b ≠ k.readByte b) : b = a :=
  by_contra fun hne => h ((Block.readByte_writeByte k a b v).trans (if_neg hne))

/-- A byte of the region, bytes[0] among them: the first two rows of R31's table in one. -/
theorem BlockMove.byte_writer (m : BlockMove i k k') {a : Byte} (h : k'.readByte a ≠ k.readByte a) :
    (∃ b, i = .rx b ∧ k.armed = true ∧ k.cursor = a) ∨ (a = 0 ∧ ∃ d, i = .stmb d) ∨
      (i = .reset ∧ k'.readByte a = 0) := by
  cases m with
  | rxData b _ armed => exact .inl ⟨b, rfl, armed, (eq_of_readByte_writeByte_ne h).symm⟩
  | stmb d => exact .inr (.inl ⟨eq_of_readByte_writeByte_ne h, d, rfl⟩)
  | reset => exact .inr (.inr ⟨rfl, rfl⟩)
  | _ => exact absurd rfl h

theorem BlockMove.cursor_writer (m : BlockMove i k k') (h : k'.cursor ≠ k.cursor) :
    (∃ b, i = .rx b) ∨ i = .req ∨ ((i = .clrcur ∨ i = .reset) ∧ k'.cursor = 0) := by
  cases m with
  | rxAddress b | rxData b => exact .inl ⟨b, rfl⟩
  | req => exact .inr (.inl rfl)
  | clrcur => exact .inr (.inr ⟨.inl rfl, rfl⟩)
  | reset => exact .inr (.inr ⟨.inr rfl, rfl⟩)
  | _ => exact absurd rfl h

theorem BlockMove.armed_writer (m : BlockMove i k k') (h : k'.armed ≠ k.armed) :
    (∃ b, i = .rx b ∧ k.armed = false ∧ k'.armed = true) ∨ ((i = .txEnd ∨ i = .reset) ∧ k'.armed = false) := by
  cases m with
  | rxAddress b _ unarmed => exact .inl ⟨b, rfl, unarmed, rfl⟩
  | txEnd => exact .inr ⟨.inl rfl, rfl⟩
  | reset => exact .inr ⟨.inr rfl, rfl⟩
  | _ => exact absurd rfl h

theorem BlockMove.strobe_writer (m : BlockMove i k k') (h : k'.strobe ≠ k.strobe) :
    i = .stbh ∨ i = .stbl ∨ (i = .reset ∧ k'.strobe = false) := by
  cases m with
  | stbh => exact .inl rfl
  | stbl => exact .inr (.inl rfl)
  | reset => exact .inr (.inr ⟨rfl, rfl⟩)
  | _ => exact absurd rfl h

theorem BlockMove.cmdError_writer (m : BlockMove i k k') (h : k'.cmdError ≠ k.cmdError) :
    i = .seterr ∨ i = .clrerr ∨ (i = .reset ∧ k'.cmdError = false) := by
  cases m with
  | seterr => exact .inl rfl
  | clrerr => exact .inr (.inl rfl)
  | reset => exact .inr (.inr ⟨rfl, rfl⟩)
  | _ => exact absurd rfl h

/-- Above the mailbox STMB is no writer: the first row of R31's table. -/
theorem BlockMove.payload_writer (m : BlockMove i k k') {a : Byte} (ha : a ≠ 0)
    (h : k'.readByte a ≠ k.readByte a) :
    (∃ b, i = .rx b ∧ k.armed = true ∧ k.cursor = a) ∨ (i = .reset ∧ k'.readByte a = 0) :=
  (m.byte_writer h).imp_right (Or.resolve_left · fun hstmb => ha hstmb.1)

/-- The mailbox: the second row of R31's table. -/
theorem BlockMove.mailbox_writer (m : BlockMove i k k') (h : k'.readByte 0 ≠ k.readByte 0) :
    (∃ b, i = .rx b ∧ k.armed = true ∧ k.cursor = 0) ∨ (∃ d, i = .stmb d) ∨ (i = .reset ∧ k'.readByte 0 = 0) :=
  (m.byte_writer h).imp_right (Or.imp_left And.right)

end writers

/-- Settles O27: the block moves by the operation's own rule, and each row of the table is a lemma about that rule. -/
theorem onlyTheNamedWritersWrite : Obligations.OnlyTheNamedWritersWrite := by
  intro i s t h
  have m := blockMove_of_exec h
  exact ⟨fun _ => m.payload_writer, m.mailbox_writer, m.cursor_writer, m.armed_writer, m.strobe_writer,
    m.cmdError_writer⟩

end Sys2Proof.Proofs

/-! PROOF. The words that spell no operation (R63, R64): the rows of the decoder against the number of operations each
class has, in the fields of a word and then in its number. -/

namespace Sys2Proof.Proofs

theorem clsField_toNat (w : OpWord) : (clsField w).toNat = w.toNat / 4096 := by
  have hw := w.isLt
  simp only [clsField, BitVec.extractLsb'_toNat, Nat.shiftRight_eq_div_pow]
  omega

theorem opField_toNat (w : OpWord) : (opField w).toNat = w.toNat / 256 % 16 := by
  simp [opField, Nat.shiftRight_eq_div_pow]

theorem immField_toNat (w : OpWord) : (immField w).toNat = w.toNat % 256 := by
  simp [immField]

/-- An operand-less row leaves out the words with a nonzero imm8 (R63). -/
@[simp] theorem operandless_eq_none_iff (imm : Byte) (i : Instr) :
    operandless imm i = none ↔ imm.toNat ≠ 0 := by
  simp [operandless, ← BitVec.toNat_inj]

/-- No row selects the fields of a word exactly where op lies beyond the operations of its class (R64), or where the
row takes no operand and imm8 is not zero (R63). The rows with an operand are op 0x0 of the classes other than 0xF. -/
theorem decodeFields_eq_none_iff (c o : BitVec 4) (imm : Byte) :
    decodeFields c o imm = none ↔
      opsOfClass c.toNat ≤ o.toNat ∨ (imm.toNat ≠ 0 ∧ (o.toNat ≠ 0 ∨ c.toNat = 0xF)) := by
  unfold decodeFields
  split
  case h_16 =>
    have hbeyond : opsOfClass c.toNat ≤ o.toNat := by
      unfold opsOfClass
      split
      case h_5 => exact Nat.zero_le _
      all_goals
        simp_all
        omega
    simp [hbeyond]
  all_goals simp [opsOfClass, *]

theorem decodeWord_eq_invalid_iff (w : OpWord) :
    decodeWord w = .invalid w ↔ decodeFields (clsField w) (opField w) (immField w) = none := by
  cases h : decodeFields (clsField w) (opField w) (immField w) <;> simp [decodeWord, h]

/-- Settles O4: the number of operations of each of the sixteen classes, read in the word's number. -/
theorem reservedWordsAreInvalid : Obligations.ReservedWordsAreInvalid := by
  intro w cls op imm hcls hop himm
  have hcls16 : cls < 16 := by
    have hw := w.isLt
    omega
  rw [decodeWord_eq_invalid_iff, decodeFields_eq_none_iff, clsField_toNat, opField_toNat, immField_toNat, ← hcls,
    ← hop, ← himm]
  clear hcls hop himm
  interval_cases cls <;> simp [opsOfClass, Nat.one_le_iff_ne_zero]

end Sys2Proof.Proofs

/-! PROOF. The bus events RX, REQ and END (R80 to R90): what all three leave unchanged, said once, and each event's own
rule. -/

namespace Sys2Proof.Proofs

open Sys2Proof.Machine

/-- The three bus events leave strobe, cmd_error, FG, the event history and the schedule as they were (R88, R89). -/
theorem busEvent_frame {i : Instr} {s t : State} (hi : agentOf i = .busEvent) (h : exec i s = .next t) :
    t.block.strobe = s.block.strobe ∧ t.block.cmdError = s.block.cmdError ∧ Safety.SameAgents s t := by
  cases i with
  | rx b =>
    cases harmed : s.block.armed with
    | false =>
      cases h.symm.trans (exec_rx_unarmed s b harmed)
      exact ⟨rfl, rfl, rfl, rfl, rfl⟩
    | true =>
      cases h.symm.trans (exec_rx_armed s b harmed)
      exact ⟨rfl, rfl, rfl, rfl, rfl⟩
  | req =>
    cases h.symm.trans (exec_req s)
    exact ⟨rfl, rfl, rfl, rfl, rfl⟩
  | txEnd =>
    cases h.symm.trans (exec_txEnd s)
    exact ⟨rfl, rfl, rfl, rfl, rfl⟩
  | _ => exact nomatch hi

/-- Settles O14: every operation has a next state, and a bus event's is inside the frame of the bus events. -/
theorem busEventsAreTotalAndLeaveForeground : Obligations.BusEventsAreTotalAndLeaveForeground := by
  intro i s hi
  obtain ⟨t, ht, -⟩ := exec_moves_block i s
  obtain ⟨hstrobe, herror, hfg, hevents, -⟩ := busEvent_frame hi ht
  exact ⟨t, ht, fun o ho => ho.symm.trans ht, hstrobe, herror, hfg, hevents⟩

/-- Among the bus events the data phase of RX is the only writer of the region (R82): the other two writers of R31's
table, STMB and RESET, are none. -/
theorem busEvent_byte_writer {i : Instr} {s t : State} (hi : agentOf i = .busEvent) (h : exec i s = .next t)
    {a : Byte} (ha : t.block.readByte a ≠ s.block.readByte a) : ∃ b, i = .rx b ∧ s.block.armed = true := by
  obtain ⟨b, hrx, harmed, -⟩ | ⟨-, d, rfl⟩ | ⟨rfl, -⟩ := (blockMove_of_exec h).byte_writer ha
  · exact ⟨b, hrx, harmed⟩
  · exact nomatch hi
  · exact nomatch hi

/-- Settles O11: a read after the one write of the data phase, and R31's table for the bus events. -/
theorem rxDataPhaseStoresAtCursor : Obligations.RxDataPhaseStoresAtCursor := by
  refine ⟨fun b s harmed => ?_, fun i s t hi h hbytes => ?_⟩
  · have hexec := exec_rx_armed s b harmed
    obtain ⟨hstrobe, herror, hagents⟩ := busEvent_frame rfl hexec
    refine ⟨_, hexec, ?stored, ?others, toNat_nextAddr _, harmed, rfl, hstrobe, herror, hagents, rfl⟩
    case stored => simp
    case others =>
      intro a ha
      simp [ha]
  · obtain ⟨a, ha⟩ := not_forall.1 hbytes
    exact busEvent_byte_writer hi h ha

/-- REQ moves the phase from ADDRESSING only (R30, R84). -/
theorem phaseAfterReq_eq (p : Phase) : phaseAfterReq p = if p = .addressing then .streaming else p := by
  cases p <;> rfl

/-- Settles O12: REQ's own rule writes no byte, and its phase is the one of `phaseAfterReq`. -/
theorem reqDrivesByteAtCursor : Obligations.ReqDrivesByteAtCursor := by
  refine ⟨by decide, fun s => ?_⟩
  have hexec := exec_req s
  obtain ⟨hstrobe, herror, hagents⟩ := busEvent_frame rfl hexec
  exact ⟨_, hexec, rfl, toNat_nextAddr _, phaseAfterReq_eq _, rfl, fun _ => rfl, hstrobe, herror, hagents⟩

/-- Settles O13: END leaves the block unarmed, so that the RX after it is in its address phase. -/
theorem endDisarmsAndKeepsCursor : Obligations.EndDisarmsAndKeepsCursor := by
  refine ⟨by decide, fun s => ?_⟩
  have hexec := exec_txEnd s
  obtain ⟨hstrobe, herror, hagents⟩ := busEvent_frame rfl hexec
  refine ⟨_, hexec, rfl, rfl, rfl, fun _ => rfl, hstrobe, herror, hagents, rfl, fun b => ?_⟩
  exact ⟨_, exec_rx_unarmed _ b rfl, rfl, fun _ => rfl⟩

end Sys2Proof.Proofs

/-! PROOF. The address decoder of RX (R100). -/

namespace Sys2Proof.Proofs

open Sys2Proof.Machine

/-- The address decoder at the spec's parameters: VERSION_TAG selects PAYLOAD_BASE (R100). -/
theorem addrDecode_eq (b : Byte) : addrDecode b = if b = 0x02 then 1 else b := rfl

/-- Settles O10: RX's own rule for an unarmed block, inside the frame of the bus events. -/
theorem rxAddressPhaseSetsCursor : Obligations.RxAddressPhaseSetsCursor := by
  intro b s unarmed
  have hexec := exec_rx_unarmed s b unarmed
  obtain ⟨hstrobe, herror, hagents⟩ := busEvent_frame rfl hexec
  exact ⟨_, hexec, addrDecode_eq b, rfl, rfl, fun _ => rfl, hstrobe, herror, hagents, rfl⟩

end Sys2Proof.Proofs

/-! PROOF. The foreground reads LDB, LDCUR, LDARM and LDERR (R103 to R106), and the words of a row that takes an
operand (R61, R62). -/

namespace Sys2Proof.Proofs

open Sys2Proof.Machine

/-- The mask of a row with an operand keeps the class (R62). -/
@[simp] theorem clsField_and_operandMask (w : OpWord) : clsField (w &&& 0xFF00) = clsField w :=
  BitVec.extractLsb'_and.trans BitVec.and_allOnes

/-- The mask of a row with an operand keeps the op (R62). -/
@[simp] theorem opField_and_operandMask (w : OpWord) : opField (w &&& 0xFF00) = opField w :=
  BitVec.extractLsb'_and.trans BitVec.and_allOnes

/-- A word that a row with an operand selects decodes to that row's operation on the word's low byte (R61, R62). -/
theorem decodeWord_of_operandRow {w m : OpWord} {build : Byte → Instr} (hw : w &&& 0xFF00 = m)
    (hrow : ∀ imm, decodeFields (clsField m) (opField m) imm = some (build imm)) :
    decodeWord w = .op (build (immField w)) := by
  have hfields : decodeFields (clsField w) (opField w) (immField w) = some (build (immField w)) := by
    rw [← clsField_and_operandMask w, ← opField_and_operandMask w, hw, hrow]
  simp [decodeWord, hfields]

/-- The words 0x2000 to 0x20FF are LDB of their low byte. -/
theorem decodeWord_ldb {w : OpWord} (hw : w &&& 0xFF00 = 0x2000) : decodeWord w = .op (.ldb (immField w)) :=
  decodeWord_of_operandRow hw fun _ => rfl

/-- Settles O15: each of the four reads is one delivery to FG of its own value, and a delivery changes nothing but FG's
last read value. -/
theorem foregroundReadsDeliverTheirValue : Obligations.ForegroundReadsDeliverTheirValue := by
  refine ⟨fun w => decodeWord_ldb, by decide, by decide, by decide, fun i v s hread => ?_⟩
  have hexec : exec i s = .next (s.deliver v) := by
    obtain ⟨a, rfl, rfl⟩ | ⟨rfl, rfl⟩ | ⟨rfl, rfl⟩ | ⟨rfl, rfl⟩ := hread
    · exact exec_ldb s a
    · exact exec_ldcur s
    · exact exec_ldarm s
    · exact exec_lderr s
  exact ⟨_, hexec, rfl, ⟨fun _ => rfl, rfl, rfl, rfl, rfl, rfl⟩, rfl, rfl, rfl, rfl, rfl, rfl⟩

end Sys2Proof.Proofs

/-! PROOF. The argument request_status_update has no effect (R148): taking it away commutes with every operation, every
FG step and every input, as long as REQ_UPDATE_EFFECT is the default. -/

namespace Sys2Proof.Proofs

open Sys2Proof.Machine Sys2Proof.Safety

/-- An outcome with a function applied to its next state, if it has one. -/
def mapNext (f : State → State) : Host.Outcome State Fault Refusal → Host.Outcome State Fault Refusal
  | .next t => .next (f t)
  | .fault r => .fault r
  | .refused r => .refused r

/-- An outcome agrees with the same outcome at the image of its state, where the function is idempotent. -/
theorem outcomesAgree_mapNext {f : State → State} (hf : ∀ s, f (f s) = f s)
    (o : Host.Outcome State Fault Refusal) : OutcomesAgree f o (mapNext f o) := by
  cases o with
  | next t => exact (hf t).symm
  | fault r => rfl
  | refused r => rfl

/-- A procedure line with the argument taken away. -/
def dropRsuLine : ProcLine → ProcLine
  | .send args l => .send { args with rsu := false } l
  | .snap kind l => .snap kind l

/-- Where a line leads, with the argument taken away. -/
def dropRsuNext : ProcNext → ProcNext
  | .line q => .line (dropRsuLine q)
  | .done r => .done r

theorem dropRsuPos_proc (q : ProcLine) : dropRsuPos (.proc q) = .proc (dropRsuLine q) := by
  cases q <;> rfl

theorem dropRsu_goTo (s : State) (n : ProcNext) : dropRsu (s.goTo n) = (dropRsu s).goTo (dropRsuNext n) := by
  cases n with
  | line q => cases q <;> rfl
  | done r => rfl

theorem dropRsu_idempotent (s : State) : dropRsu (dropRsu s) = dropRsu s := by
  have hpos : dropRsuPos (dropRsuPos s.fg.pos) = dropRsuPos s.fg.pos := by
    cases s.fg.pos with
    | proc q => cases q <;> rfl
    | _ => rfl
  have hcall (c : Call) : dropRsuCall (dropRsuCall c) = dropRsuCall c := by cases c <;> rfl
  simp [dropRsu, hpos, hcall]

/-- No operation looks at the position or the calls; RESET writes a position that holds no argument. -/
theorem execWith_dropRsu (p : Params) (i : Instr) (s : State) :
    execWith p i (dropRsu s) = mapNext dropRsu (execWith p i s) := by
  cases i <;> rfl

theorem bootStep_dropRsu (p : Params) (b : BootStep) (s : State) :
    bootStep p b (dropRsu s) = mapNext dropRsu (bootStep p b s) := by
  cases b <;> rfl

theorem procPrimitive_dropRsuLine (q : ProcLine) : procPrimitive (dropRsuLine q) = procPrimitive q := by
  cases q with
  | send args l => cases l <;> rfl
  | snap kind l => rfl

theorem sendFinish_dropRsu (args : SendArgs) (r : SendResult) :
    sendFinish { args with rsu := false } r = dropRsuNext (sendFinish args r) := by
  simp only [sendFinish, apply_ite dropRsuNext]
  rfl

theorem preWaitTimeout_dropRsu (p : Params) (args : SendArgs) :
    preWaitTimeout p { args with rsu := false } = dropRsuNext (preWaitTimeout p args) := by
  cases h : p.preWait <;> simp [preWaitTimeout, h, dropRsuNext, dropRsuLine]

/-- Where send_command goes from a line: the three lines that choose choose by what the primitive delivered and by the
bound and the draw of R141, not by the argument. -/
theorem sendAdvance_dropRsu (p : Params) (draw : Bool) (args : SendArgs) (v : Byte) (l : SendLine) :
    sendAdvance p draw { args with rsu := false } v l = dropRsuNext (sendAdvance p draw args v l) := by
  cases l with
  | preArmed n | preCursor n | poll n =>
    simp only [sendAdvance, preWaitTimeout_dropRsu, sendFinish_dropRsu, apply_ite dropRsuNext]
    rfl
  | report => exact sendFinish_dropRsu args .failure
  | _ => rfl

/-- A line of snapshot_read leads to no line of send_command. -/
theorem dropRsuNext_snapAdvance (p : Params) (kind : SnapKind) (v : Byte) (l : SnapLine) :
    dropRsuNext (snapAdvance p kind v l) = snapAdvance p kind v l := by
  cases l with
  | firstCheck lo n => exact apply_ite dropRsuNext ..
  | readByte a left got => exact apply_ite dropRsuNext ..
  | lastCheck got => rfl

theorem procAdvance_dropRsu (p : Params) (draw : Bool) (v : Byte) (q : ProcLine) :
    procAdvance p draw v (dropRsuLine q) = dropRsuNext (procAdvance p draw v q) := by
  cases q with
  | send args l => exact sendAdvance_dropRsu p draw args v l
  | snap kind l => exact (dropRsuNext_snapAdvance p kind v l).symm

theorem procStep_dropRsu (p : Params) (draw : Bool) (q : ProcLine) (s : State) :
    procStep p draw (dropRsuLine q) (dropRsu s) = mapNext dropRsu (procStep p draw q s) := by
  unfold procStep
  rw [procPrimitive_dropRsuLine, execWith_dropRsu]
  cases execWith p (procPrimitive q) s with
  | next t =>
    simp only [mapNext, dropRsu_goTo, ← procAdvance_dropRsu]
    rfl
  | fault r => rfl
  | refused r => rfl

/-- The one place that reads the argument is REQ_UPDATE_EFFECT as a call begins (log 20); by default it does nothing. -/
theorem callEntry_dropRsu {p : Params} (hp : NoUpdateEffect p) (k : Block) (c : Call) :
    callEntry p k (dropRsuCall c) = dropRsuLine (callEntry p k c) := by
  cases c with
  | send args => simp only [dropRsuCall, callEntry, requestUpdate_none hp, dropRsuLine]
  | _ => rfl

theorem fgStep_dropRsu {p : Params} (hp : NoUpdateEffect p) (draw : Bool) (s : State) :
    fgStep p draw (dropRsu s) = mapNext dropRsu (fgStep p draw s) := by
  cases hpos : s.fg.pos with
  | boot b =>
    have hpos' : (dropRsu s).fg.pos = .boot b := congrArg dropRsuPos hpos
    rw [fgStep_boot hpos, fgStep_boot hpos', bootStep_dropRsu]
  | proc q =>
    have hpos' : (dropRsu s).fg.pos = .proc (dropRsuLine q) :=
      (congrArg dropRsuPos hpos).trans (dropRsuPos_proc q)
    rw [fgStep_proc hpos, fgStep_proc hpos', procStep_dropRsu]
  | loop =>
    have hpos' : (dropRsu s).fg.pos = .loop := congrArg dropRsuPos hpos
    cases hcalls : s.fg.calls with
    | nil =>
      have hcalls' : (dropRsu s).fg.calls = [] := congrArg (List.map dropRsuCall) hcalls
      rw [fgStep_idle hpos hcalls, fgStep_idle hpos' hcalls']
      rfl
    | cons c cs =>
      have hcalls' : (dropRsu s).fg.calls = dropRsuCall c :: cs.map dropRsuCall :=
        congrArg (List.map dropRsuCall) hcalls
      rw [fgStep_call hpos hcalls, fgStep_call hpos' hcalls', callEntry_dropRsu hp, callBlock_none hp,
        callBlock_none hp, ← procStep_dropRsu]
      rfl

theorem runInput_dropRsu {p : Params} (hp : NoUpdateEffect p) (x : Input) (s : State) :
    runInput p x (dropRsu s) = mapNext dropRsu (runInput p x s) := by
  cases x with
  | word w =>
    cases hw : decodeWord w with
    | op i => simp only [runInput, runWord_op hw, execWith_dropRsu]
    | invalid w' => simp only [runInput, runWord, hw, mapNext]
  | fg draw => exact fgStep_dropRsu hp draw s
  | timer => rfl

theorem runNext_dropRsu {p : Params} (hp : NoUpdateEffect p) (s : State) :
    runNext p (dropRsu s) = mapNext dropRsu (runNext p s) := by
  have hschedule : (dropRsu s).schedule = s.schedule := rfl
  unfold runNext
  rw [hschedule]
  cases s.schedule with
  | nil => rfl
  | cons x rest => exact runInput_dropRsu hp x (s.setSchedule rest)

/-- Settles O44: an input on the state without the argument gives the outcome of the input, without the argument. -/
theorem statusUpdateArgumentHasNoEffect : Obligations.StatusUpdateArgumentHasNoEffect := by
  have hspec : NoUpdateEffect specParams := fun _ _ => rfl
  refine ⟨hspec, fun s => ?_, fun p x s hp => ?_⟩
  · rw [step, step, runNext_dropRsu hspec]
    exact outcomesAgree_mapNext dropRsu_idempotent _
  · rw [runInput_dropRsu hp]
    exact outcomesAgree_mapNext dropRsu_idempotent _

end Sys2Proof.Proofs

/-! PROOF. The foreground writes and controls STMB, CLRCUR, STBH, STBL, SETERR, CLRERR and DELAY (R130 to R136). -/

namespace Sys2Proof.Proofs

open Sys2Proof.Machine Sys2Proof.Safety

/-- An operation that changes nothing but the block leaves everything else as it was. -/
theorem sameAgents_setBlock (s : State) (k : Block) : SameAgents s (s.setBlock k) := ⟨rfl, rfl, rfl⟩

/-- A write changes no byte but its own, said of the whole region. -/
theorem sameBytesBut_writeByte (k : Block) (a v : Byte) : SameBytesBut a k (k.writeByte a v) := fun b hb =>
  (Block.readByte_writeByte k a b v).trans (if_neg hb)

/-- The words 0x3000 to 0x30FF are STMB of their low byte. -/
theorem decodeWord_stmb {w : OpWord} (hw : w &&& 0xFF00 = 0x3000) : decodeWord w = .op (.stmb (immField w)) :=
  decodeWord_of_operandRow hw fun _ => rfl

/-- Settles O16: STMB is one write of the region, at the mailbox. -/
theorem stmbWritesOnlyTheMailbox : Obligations.StmbWritesOnlyTheMailbox := by
  refine ⟨fun w => decodeWord_stmb, fun d s => ?_⟩
  refine ⟨_, exec_stmb s d, ?stored, sameBytesBut_writeByte _ _ _, rfl, rfl, rfl, rfl, rfl, sameAgents_setBlock _ _, rfl⟩
  case stored => simp

/-- Of the foreground operations only CLRCUR writes the cursor (R31): its other writers are RX, REQ and RESET. -/
theorem foreground_cursor_writer {i : Instr} {s t : State} (hi : agentOf i = .fgRead ∨ agentOf i = .fgWrite)
    (h : exec i s = .next t) (hcursor : t.block.cursor ≠ s.block.cursor) : i = .clrcur := by
  obtain ⟨b, rfl⟩ | rfl | ⟨rfl | rfl, -⟩ := (blockMove_of_exec h).cursor_writer hcursor
  · simp [agentOf] at hi
  · simp [agentOf] at hi
  · rfl
  · simp [agentOf] at hi

/-- Settles O17: CLRCUR leaves the block armed, so that the RX after it is in its data phase, at cursor 0. -/
theorem clrcurRedirectsAnOpenWrite : Obligations.ClrcurRedirectsAnOpenWrite := by
  refine ⟨by decide, fun i s t => foreground_cursor_writer, fun s => ⟨_, exec_clrcur s, rfl, fun _ => rfl, rfl, rfl,
    rfl, rfl, sameAgents_setBlock _ _, rfl, fun harmed b => ?_⟩⟩
  refine ⟨_, exec_rx_armed _ b harmed, ?stored, rfl, ?others⟩
  case stored => simp
  case others => exact sameBytesBut_writeByte (s.block.setCursor 0) 0 b

/-- Settles O18: the strobe's level after the step, and so the edge, is the operation's own. -/
theorem strobeOperationsSetTheLine : Obligations.StrobeOperationsSetTheLine := by
  refine ⟨by decide, by decide, fun i level s hi => ?_⟩
  have hexec : exec i s = .next (s.setBlock (s.block.setStrobe level)) := by
    obtain ⟨rfl, rfl⟩ | ⟨rfl, rfl⟩ := hi
    · exact exec_stbh s
    · exact exec_stbl s
  refine ⟨_, hexec, rfl, ?edge, fun _ => rfl, rfl, rfl, rfl, rfl, sameAgents_setBlock _ _, rfl⟩
  case edge => simp [risingEdge, and_comm]

/-- Of all operations only CLRERR and RESET clear cmd_error: its third writer, SETERR, sets it. -/
theorem cmdError_clearer {i : Instr} {s t : State} (h : exec i s = .next t) (hset : s.block.cmdError = true)
    (hclear : t.block.cmdError = false) : i = .clrerr ∨ i = .reset := by
  have hchange : t.block.cmdError ≠ s.block.cmdError := by simp [hset, hclear]
  obtain rfl | rfl | ⟨rfl, -⟩ := (blockMove_of_exec h).cmdError_writer hchange
  · cases h.symm.trans (exec_seterr s)
    exact nomatch hclear
  · exact .inl rfl
  · exact .inr rfl

/-- Settles O19: the rules of the two operations, and the writers of cmd_error. -/
theorem commandErrorOperations : Obligations.CommandErrorOperations := by
  refine ⟨by decide, by decide, fun s => ?_, fun i s t => cmdError_clearer, fun s => ?_⟩
  · exact ⟨_, exec_clrerr s, rfl, fun _ => rfl, rfl, rfl, rfl, rfl, sameAgents_setBlock _ _, rfl⟩
  · exact ⟨_, exec_seterr s, rfl, rfl, rfl, fun _ => rfl, rfl, rfl, rfl, rfl, rfl, rfl, rfl⟩

/-- Settles O20: the next state of DELAY is the state itself. -/
theorem delayLeavesEverything : Obligations.DelayLeavesEverything :=
  ⟨by decide, fun s => ⟨s, exec_delay s, ⟨fun _ => rfl, rfl, rfl, rfl, rfl, rfl⟩, ⟨rfl, rfl, rfl⟩, rfl⟩⟩

end Sys2Proof.Proofs

/-! PROOF. The encoding (R60 to R66): encoding an operation and decoding its word undo each other, and the opcode map as
rows of match and mask against the decoder. -/

namespace Sys2Proof.Proofs

/-- Settles O1: the word of each operation is its three fields, and these select the operation's own row. -/
theorem decodeOfEncodeIsIdentity : Obligations.DecodeOfEncodeIsIdentity := by
  intro i
  cases i <;> exact decodeWord_wordOf _ _ _

/-- A field whose number is known. -/
theorem eq_ofNat_of_toNat_eq {f : BitVec 4} {n : Nat} (h : f.toNat = n) : f = BitVec.ofNat 4 n := by
  simp [← h]

/-- An operand-less row selects only imm8 = 0x00 (R63). -/
theorem operandless_eq_some_iff {imm : Byte} {i j : Instr} : operandless imm i = some j ↔ imm = 0 ∧ i = j := by
  simp [operandless]

/-- The row that three fields select is that of an operation whose word has these fields. -/
theorem encode_of_decodeFields {c o : BitVec 4} {imm : Byte} {i : Instr} (h : decodeFields c o imm = some i) :
    encode i = wordOf c o imm := by
  unfold decodeFields at h
  split at h
  case h_16 => cases h
  all_goals
    rename_i hc ho
    obtain rfl := eq_ofNat_of_toNat_eq hc
    obtain rfl := eq_ofNat_of_toNat_eq ho
  case h_1 | h_4 | h_8 =>
    cases h
    rfl
  all_goals
    obtain ⟨rfl, rfl⟩ := operandless_eq_some_iff.1 h
    rfl

/-- A word spells the operation that its three fields select. -/
theorem decodeWord_eq_op_iff (w : OpWord) (i : Instr) :
    decodeWord w = .op i ↔ decodeFields (clsField w) (opField w) (immField w) = some i := by
  cases h : decodeFields (clsField w) (opField w) (immField w) <;> simp [decodeWord, h]

/-- Settles O2: the operation's word has the fields of the word it was decoded from. -/
theorem encodeOfDecodeIsIdentity : Obligations.EncodeOfDecodeIsIdentity := by
  intro w i h
  exact (encode_of_decodeFields ((decodeWord_eq_op_iff w i).1 h)).trans (wordOf_fields w)

/-- The words that spell an operation are the encoder's. -/
theorem decodeWord_eq_op_iff_encode (w : OpWord) (i : Instr) : decodeWord w = .op i ↔ encode i = w :=
  ⟨encodeOfDecodeIsIdentity w i, fun h => h ▸ decodeOfEncodeIsIdentity i⟩

/-- The mask of a row with an operand clears imm8 and nothing else (R62). -/
theorem wordOf_and_operandMask (c o : BitVec 4) (imm : Byte) : wordOf c o imm &&& 0xFF00 = wordOf c o 0 := by
  have hmask : (0xFF00 : OpWord) = wordOf (BitVec.allOnes 4) (BitVec.allOnes 4) 0 := by decide
  rw [hmask, wordOf, wordOf, BitVec.and_append, BitVec.and_append, BitVec.and_allOnes, BitVec.and_allOnes]
  exact congrArg _ BitVec.and_zero

/-- A row with an operand selects the words with its class and op (R62). -/
theorem operandRow_selects_iff {c o : BitVec 4} {build : Byte → Instr} (hb : ∀ v, encode (build v) = wordOf c o v)
    (w : OpWord) : rowSelects ⟨wordOf c o 0, 0xFF00, build⟩ w = true ↔ encode (build (immField w)) = w := by
  rw [rowSelects, beq_iff_eq, hb]
  constructor
  · intro h
    have hc : clsField w = c := by rw [← clsField_and_operandMask, h, clsField_wordOf]
    have ho : opField w = o := by rw [← opField_and_operandMask, h, opField_wordOf]
    rw [← hc, ← ho, wordOf_fields]
  · intro h
    rw [← h, wordOf_and_operandMask]

/-- A row without operand selects its one word (R62). -/
theorem bareRow_selects_iff (i : Instr) (w : OpWord) :
    rowSelects ⟨encode i, 0xFFFF, fun _ => i⟩ w = true ↔ encode i = w := by
  have hmask : w &&& 0xFFFF = w := BitVec.and_allOnes
  rw [rowSelects, hmask, beq_iff_eq, eq_comm]

/-- A row of the opcode map selects a word exactly where the word is the encoder's for the row's operation. -/
theorem rowSelects_iff {r : OpcodeRow} (hr : r ∈ opcodeMap) (w : OpWord) :
    rowSelects r w = true ↔ encode (r.build (immField w)) = w := by
  simp only [opcodeMap, List.mem_cons, List.not_mem_nil, or_false] at hr
  rcases hr with rfl | rfl | rfl | rfl | rfl | rfl | rfl | rfl | rfl | rfl | rfl | rfl | rfl | rfl | rfl
  · exact operandRow_selects_iff (c := 0x1) (o := 0x0) (fun _ => rfl) w
  · exact bareRow_selects_iff .req w
  · exact bareRow_selects_iff .txEnd w
  · exact operandRow_selects_iff (c := 0x2) (o := 0x0) (fun _ => rfl) w
  · exact bareRow_selects_iff .ldcur w
  · exact bareRow_selects_iff .ldarm w
  · exact bareRow_selects_iff .lderr w
  · exact operandRow_selects_iff (c := 0x3) (o := 0x0) (fun _ => rfl) w
  · exact bareRow_selects_iff .clrcur w
  · exact bareRow_selects_iff .stbh w
  · exact bareRow_selects_iff .stbl w
  · exact bareRow_selects_iff .seterr w
  · exact bareRow_selects_iff .clrerr w
  · exact bareRow_selects_iff .delay w
  · exact bareRow_selects_iff .reset w

/-- No two rows of the opcode map are of the same operation. -/
theorem opcodeMap_pairwise : opcodeMap.Pairwise (fun r r' => ∀ v, r.build v ≠ r'.build v) := by
  simp only [opcodeMap, List.pairwise_cons, List.forall_mem_cons]
  simp

/-- Every operation has its row in the opcode map. -/
theorem exists_row (i : Instr) : ∃ r ∈ opcodeMap, r.build (immField (encode i)) = i := by
  cases i <;> simp [opcodeMap, encode]

/-- The rows that select a word are those of the operation the word spells. -/
theorem mem_selectedRows {w : OpWord} {r : OpcodeRow} (h : r ∈ opcodeMap.filter (fun r => rowSelects r w)) :
    decodeWord w = .op (r.build (immField w)) := by
  obtain ⟨hr, hsel⟩ := List.mem_filter.1 h
  exact (decodeWord_eq_op_iff_encode w _).2 ((rowSelects_iff hr w).1 hsel)

/-- A word that no row selects spells no operation. -/
theorem decodeWord_of_no_row {w : OpWord} (h : opcodeMap.filter (fun r => rowSelects r w) = []) :
    decodeWord w = .invalid w := by
  rw [decodeWord_eq_invalid_iff]
  cases hd : decodeFields (clsField w) (opField w) (immField w) with
  | none => rfl
  | some i =>
    obtain rfl := encodeOfDecodeIsIdentity w i ((decodeWord_eq_op_iff w i).2 hd)
    obtain ⟨r, hr, hbuild⟩ := exists_row i
    have hsel : rowSelects r (encode i) = true := (rowSelects_iff hr _).2 (congrArg encode hbuild)
    exact absurd hsel (List.filter_eq_nil_iff.1 h r hr)

/-- Settles O3: a selecting row is the row of the operation the word spells, and an operation has one row. -/
theorem everyWordIsOneRowOrInvalid : Obligations.EveryWordIsOneRowOrInvalid := by
  intro w
  split
  case h_1 h => exact decodeWord_of_no_row h
  case h_2 r h => exact mem_selectedRows (h ▸ List.mem_singleton_self r)
  case h_3 hnil hone =>
    have hpair := opcodeMap_pairwise.filter (fun r => rowSelects r w)
    have hmem (r) := mem_selectedRows (w := w) (r := r)
    generalize opcodeMap.filter (fun r => rowSelects r w) = rows at hnil hone hpair hmem
    match rows with
    | [] => exact hnil rfl
    | [r] => exact hone r rfl
    | r :: r' :: rest =>
      have hsame := (hmem r (by simp)).symm.trans (hmem r' (by simp))
      exact (List.pairwise_cons.1 hpair).1 r' (by simp) (immField w) (Decoded.op.inj hsame)

/-- Settles O5: the decoder on nine fixed words. -/
theorem writtenOutWordsDecode : Obligations.WrittenOutWordsDecode := by
  unfold Obligations.WrittenOutWordsDecode
  decide

end Sys2Proof.Proofs

/-! PROOF. The text of an operation (R67): the digits of a byte literal, the words of the line, and the assembler's
reading of them. -/

namespace Sys2Proof.Proofs

open Sys2Proof.Machine

/-- The sixteen digits are read back by their values, and none of them ends a word. -/
theorem hexDigit_readBack :
    ∀ n < 16, digitValue 16 (hexDigit n) = some n ∧ isSeparator (hexDigit n) = false ∧ hexDigit n ≠ ';' := by
  decide

/-- A byte's literal is read back. -/
theorem byteLiteral_byteText (v : Byte) : byteLiteral (byteText v) = some v := by
  have hv := v.isLt
  have hhigh := (hexDigit_readBack (v.toNat / 16) (by omega)).1
  have hlow := (hexDigit_readBack (v.toNat % 16) (by omega)).1
  simp [byteLiteral, byteText, hhigh, hlow, Nat.div_add_mod]

/-- A separator ends the word begun, and other characters belong to it. -/
theorem wordsFrom_word {w : List Char} (hw : ∀ c ∈ w, isSeparator c = false) (begun rest : List Char) :
    wordsFrom begun (w ++ rest) = wordsFrom (begun ++ w) rest := by
  induction w generalizing begun with
  | nil => simp
  | cons c w ih =>
    obtain ⟨hc, hw⟩ := List.forall_mem_cons.1 hw
    simp [wordsFrom, hc, ih hw]

/-- A mnemonic, a blank and the text of a byte are two words. -/
theorem lineWords_operand {m : List Char} (hm : ∀ c ∈ m, isSeparator c = false ∧ c ≠ ';') (hne : m ≠ []) (v : Byte) :
    lineWords (m ++ ' ' :: byteText v) = [m, byteText v] := by
  have hv := v.isLt
  have htext : ∀ c ∈ byteText v, isSeparator c = false ∧ c ≠ ';' := by
    have hhigh := (hexDigit_readBack (v.toNat / 16) (by omega)).2
    have hlow := (hexDigit_readBack (v.toNat % 16) (by omega)).2
    simp only [byteText, List.forall_mem_cons]
    exact ⟨by decide, by decide, hhigh, hlow, by simp⟩
  have hnocomment : (m ++ ' ' :: byteText v).takeWhile (fun c => c != ';') = m ++ ' ' :: byteText v := by
    rw [List.takeWhile_eq_self_iff]
    simp only [List.mem_append, List.mem_cons, bne_iff_ne]
    rintro c (hc | rfl | hc)
    · exact (hm c hc).2
    · decide
    · exact (htext c hc).2
  have hblank : isSeparator ' ' = true := by decide
  have hlast : wordsFrom [] (byteText v) = [byteText v] := by
    have h := wordsFrom_word (fun c hc => (htext c hc).1) [] []
    rw [List.append_nil, List.nil_append] at h
    rw [h]
    rfl
  rw [lineWords, hnocomment, wordsFrom_word (fun c hc => (hm c hc).1), List.nil_append, wordsFrom, if_pos hblank, hlast,
    consWord, if_neg hne]

/-- The line of an operation with an operand: what the assembler asks of its mnemonic m, and the byte's literal. -/
theorem assembleLine_operand {build : Byte → Instr} {v : Byte} {m : List Char} (hv : operandOf (build v) = some v)
    (htext : (mnemonicOf (build v)).toList = m) (hm : ∀ c ∈ m, isSeparator c = false ∧ c ≠ ';') (hne : m ≠ [])
    (hprefix : ∀ ws, dropPrefix (m :: ws) = m :: ws) (hop : ∀ u, operandOperation m u = some (build u)) :
    assembleLine (instrText (build v)) = some (.op (build v)) := by
  have hline : instrText (build v) = m ++ ' ' :: byteText v := by simp only [instrText, hv, htext]
  rw [hline, assembleLine, lineWords_operand hm hne, hprefix]
  simp [hop, byteLiteral_byteText]

/-- Settles O6: a line without an operand is one fixed text; one with an operand holds the byte's literal. -/
theorem assembledTextReadsBack : Obligations.AssembledTextReadsBack := by
  intro i
  cases i with
  | rx b =>
    exact assembleLine_operand (m := ['R', 'X']) rfl (by simp [mnemonicOf]) (by simp [isSeparator]) (by simp)
      (by simp [dropPrefix]) (by simp [operandOperation, mnemonicOf])
  | ldb a =>
    exact assembleLine_operand (m := ['L', 'D', 'B']) rfl (by simp [mnemonicOf]) (by simp [isSeparator]) (by simp)
      (by simp [dropPrefix]) (by simp [operandOperation, mnemonicOf])
  | stmb d =>
    exact assembleLine_operand (m := ['S', 'T', 'M', 'B']) rfl (by simp [mnemonicOf]) (by simp [isSeparator]) (by simp)
      (by simp [dropPrefix]) (by simp [operandOperation, mnemonicOf])
  | _ => decide

end Sys2Proof.Proofs

/-! PROOF. One step (R5, R48): what the head of the schedule runs, and that every step answers but the one on an invalid
word. -/

namespace Sys2Proof.Proofs

open Sys2Proof.Machine Sys2Proof.Safety

/-- The next input leaves the schedule and runs. -/
theorem step_of_schedule {s : State} {x : Input} {rest : List Input} (h : s.schedule = x :: rest) :
    step s = runInput specParams x (s.setSchedule rest) := by
  simp only [step, runNext, h]

/-- An empty schedule leaves the state as it is (log 2). -/
theorem step_of_empty_schedule {s : State} (h : s.schedule = []) : step s = .next s := by
  simp only [step, runNext, h]

/-- A word that spells an operation runs it. -/
theorem runInput_word {p : Params} {w : OpWord} {i : Instr} (h : decodeWord w = .op i) (s : State) :
    runInput p (.word w) s = execWith p i s :=
  runWord_op h s

/-- A word that spells no operation is refused. -/
theorem runInput_invalid {p : Params} {w : OpWord} (h : decodeWord w = .invalid w) (s : State) :
    runInput p (.word w) s = .refused (.invalidWord w) := by
  simp only [runInput, runWord, h]

/-- Settles O7: the head of the schedule runs, and the spec's parameters are the machine's. -/
theorem stepRunsDecodedOperation : Obligations.StepRunsDecodedOperation := by
  intro s w rest i hs hw
  rw [step_of_schedule hs, runInput_word hw, execWith_specParams]

/-- Settles O8: the two other kinds of input at the head of the schedule, and the empty schedule. -/
theorem stepRunsForegroundTimerAndWaits : Obligations.StepRunsForegroundTimerAndWaits :=
  ⟨fun _ _ _ => step_of_schedule, fun _ _ => step_of_schedule, fun _ => step_of_empty_schedule⟩

/-- Under all parameters every operation answers a next state. -/
theorem execWith_next (p : Params) (i : Instr) (s : State) : ∃ t, execWith p i s = .next t := by
  cases i <;> exact ⟨_, rfl⟩

/-- A line of a procedure answers a next state. -/
theorem procStep_next (p : Params) (draw : Bool) (q : ProcLine) (s : State) : ∃ t, procStep p draw q s = .next t := by
  obtain ⟨u, hu, -⟩ := exec_moves_block (procPrimitive q) s
  exact ⟨_, procStep_of_next hu⟩

/-- Every FG step answers a next state. -/
theorem fgStep_next (p : Params) (draw : Bool) (s : State) : ∃ t, fgStep p draw s = .next t := by
  cases hpos : s.fg.pos with
  | boot b =>
    rw [fgStep_boot hpos]
    cases b <;> exact ⟨_, rfl⟩
  | proc q =>
    rw [fgStep_proc hpos]
    exact procStep_next p draw q s
  | loop =>
    cases hcalls : s.fg.calls with
    | nil => exact ⟨s, fgStep_idle hpos hcalls⟩
    | cons c cs =>
      rw [fgStep_call hpos hcalls]
      exact procStep_next p draw _ _

/-- Every word spells an operation or is `Invalid(word)` (R65). -/
theorem decodeWord_cases (w : OpWord) : (∃ i, decodeWord w = .op i) ∨ decodeWord w = .invalid w := by
  unfold decodeWord
  split
  · exact .inl ⟨_, rfl⟩
  · exact .inr rfl

/-- Every input answers a next state but a word that spells no operation. -/
theorem runInput_next_or_invalid (p : Params) (x : Input) (s : State) :
    (∃ t, runInput p x s = .next t) ∨ ∃ w, x = .word w ∧ decodeWord w = .invalid w := by
  cases x with
  | word w =>
    obtain ⟨i, hw⟩ | hw := decodeWord_cases w
    · rw [runInput_word hw]
      exact .inl (execWith_next p i s)
    · exact .inr ⟨w, rfl, hw⟩
  | fg draw => exact .inl (fgStep_next p draw s)
  | timer => exact .inl ⟨s, rfl⟩

/-- Every step answers a next state but the one on a word that spells no operation. -/
theorem step_next_or_invalid (s : State) :
    (∃ t, step s = .next t) ∨ ∃ w rest, s.schedule = .word w :: rest ∧ decodeWord w = .invalid w := by
  cases hs : s.schedule with
  | nil => exact .inl ⟨s, step_of_empty_schedule hs⟩
  | cons x rest =>
    rw [step_of_schedule hs]
    obtain hnext | ⟨w, rfl, hw⟩ := runInput_next_or_invalid specParams x (s.setSchedule rest)
    · exact .inl hnext
    · exact .inr ⟨w, rest, rfl, hw⟩

/-- A step on a word that spells no operation is refused. -/
theorem step_invalid {s : State} {w : OpWord} {rest : List Input} (hs : s.schedule = .word w :: rest)
    (hw : decodeWord w = .invalid w) : step s = .refused (.invalidWord w) :=
  (step_of_schedule hs).trans (runInput_invalid hw _)

/-- Settles O9: every other step answers a next state, so that a refusal is that of such a word. -/
theorem stepStopsOnlyOnInvalidWord : Obligations.StepStopsOnlyOnInvalidWord := by
  refine ⟨fun s w rest => step_invalid, fun s => ?_⟩
  obtain ⟨t, ht⟩ | ⟨w, rest, hs, hw⟩ := step_next_or_invalid s
  · exact ⟨.inr ⟨t, ht⟩, fun r hr => nomatch ht.symm.trans hr⟩
  · have href := step_invalid hs hw
    refine ⟨.inl ⟨w, rest, hs, hw, href⟩, fun r hr => ⟨w, rest, hs, hw, ?_⟩⟩
    cases href.symm.trans hr
    rfl

end Sys2Proof.Proofs

/-! PROOF. What one step can do (R5, R48), said once, and the invariants and frames that follow from it: the region's
canonical form and the phase (R29), the poll counters (R141), cmd_error and the event history (R26, R161, R163). -/

namespace Sys2Proof.Proofs

open Sys2Proof.Machine Sys2Proof.Safety

/-- What a step can have done: nothing to block, events and position; the operation of a word; a boot step, which may
drive the strobe; or the primitive of FG's line, or of the first line of a call, and FG's move from that line. -/
inductive StepMove (s t : State) : Prop where
  | quiet (block : t.block = s.block) (events : t.events = s.events) (pos : t.fg.pos = s.fg.pos)
  | word (w : OpWord) (rest : List Input) (i : Instr) (head : s.schedule = .word w :: rest)
      (decodes : decodeWord w = .op i) (runs : exec i (s.setSchedule rest) = .next t)
  | boot (block : t.block = s.block ∨ t.block = s.block.setStrobe false) (events : t.events = s.events)
      (pos : (∃ b, t.fg.pos = .boot b) ∨ t.fg.pos = .loop)
  | line (q : ProcLine) (draw : Bool) (s0 u : State)
      (starts : s.fg.pos = .proc q ∨ ∃ c, q = callEntry specParams s.block c)
      (block : s0.block = s.block) (events : s0.events = s.events)
      (runs : exec (procPrimitive q) s0 = .next u)
      (moves : t = u.goTo (procAdvance specParams draw u.fg.result q))

theorem stepMove_of_fgStep {s t : State} {draw : Bool} {rest : List Input}
    (h : fgStep specParams draw (s.setSchedule rest) = .next t) : StepMove s t := by
  obtain ⟨b, -, hb⟩ | ⟨q, s0, hq, hstart⟩ | ⟨-, -, rfl⟩ := fgStep_inv h
  · obtain ⟨k, pos, rfl, hk, hpos⟩ := bootStep_inv hb
    exact .boot hk rfl (hpos.imp_left fun ⟨b', hb'⟩ => ⟨b', hb'⟩)
  · obtain ⟨u, hu, ht⟩ := procStep_inv hq
    obtain ⟨hpos, rfl⟩ | ⟨-, c, cs, -, rfl, rfl⟩ := hstart
    · exact .line q draw (s.setSchedule rest) u (.inl hpos) rfl rfl hu ht
    · have hblock := callBlock_none (p := specParams) (fun _ _ => rfl) s.block c
      exact .line _ draw (((s.setSchedule rest).setCalls cs).setBlock _) u (.inr ⟨c, rfl⟩) hblock rfl hu ht
  · exact .quiet rfl rfl rfl

/-- Every step that answers is one of these. -/
theorem stepMove_of_step {s t : State} (h : step s = .next t) : StepMove s t := by
  cases hs : s.schedule with
  | nil =>
    cases (step_of_empty_schedule hs).symm.trans h
    exact .quiet rfl rfl rfl
  | cons x rest =>
    rw [step_of_schedule hs] at h
    cases x with
    | word w =>
      obtain ⟨i, hw⟩ | hw := decodeWord_cases w
      · rw [runInput_word hw, execWith_specParams] at h
        exact .word w rest i hs hw h
      · exact nomatch (runInput_invalid hw _).symm.trans h
    | fg draw => exact stepMove_of_fgStep h
    | timer =>
      cases h
      exact .quiet rfl rfl rfl

/-- To the block a step does nothing, or what one operation does: a boot step drives the strobe as STBL does. -/
theorem StepMove.block_move {s t : State} (m : StepMove s t) :
    t.block = s.block ∨ ∃ i, BlockMove i s.block t.block := by
  cases m with
  | quiet block => exact .inl block
  | word w rest i _ _ runs => exact .inr ⟨i, blockMove_of_exec (s := s.setSchedule rest) runs⟩
  | boot block => 
    refine block.imp_right fun h => ⟨.stbl, ?_⟩
    rw [h]
    exact .stbl _
  | line q draw s0 u _ block _ runs moves =>
    refine .inr ⟨procPrimitive q, ?_⟩
    rw [moves, State.goTo_block, ← block]
    exact blockMove_of_exec runs

/-! ### The region's form and the phase -/

/-- No operation takes the region out of its canonical form: the two that write a byte write inside the region. -/
theorem BlockMove.keeps_wf {i : Instr} {k k' : Block} (m : BlockMove i k k') (h : k.bytes.wf) : k'.bytes.wf := by
  cases m with
  | rxData b | stmb d => exact Block.writeByte_wf h _ _
  | reset => exact State.reset_bytes_wf
  | _ => exact h

/-- REQ keeps IDLE and reaches it from no other phase (R30). -/
theorem phaseAfterReq_eq_idle_iff (p : Phase) : phaseAfterReq p = .idle ↔ p = .idle := by
  cases p <;> decide

/-- The phase stays IDLE exactly while armed is 0 (R29): RX leaves IDLE as it arms the block or finds it armed, END and
RESET go to IDLE as they disarm it. -/
theorem BlockMove.keeps_idle_iff {i : Instr} {k k' : Block} (m : BlockMove i k k')
    (h : k.phase = .idle ↔ k.armed = false) : k'.phase = .idle ↔ k'.armed = false := by
  cases m with
  | rxAddress => simp
  | rxData b _ armed => simp [armed]
  | req => exact (phaseAfterReq_eq_idle_iff _).trans h
  | txEnd => simp
  | reset => decide
  | _ => exact h

/-- Settles O25: the block moves by one operation's rule at most, and no operation breaks the invariant. -/
theorem stepKeepsRegionFormAndPhase : Obligations.StepKeepsRegionFormAndPhase := by
  rintro s t ⟨hwf, hphase⟩ h
  obtain hsame | ⟨i, m⟩ := (stepMove_of_step h).block_move
  · rw [BlockInv, hsame]
    exact ⟨hwf, hphase⟩
  · exact ⟨m.keeps_wf hwf, m.keeps_idle_iff hphase⟩

/-- Settles O28: the phase of the operation's rule, row by row; RX's guard is armed, which is not IDLE. -/
theorem phaseFollowsTheTable : Obligations.PhaseFollowsTheTable := by
  intro i s hidle
  obtain ⟨t, ht, m⟩ := exec_moves_block i s
  refine ⟨t, ht, ?_⟩
  generalize t.block = k' at m
  cases m with
  | rxAddress b _ unarmed =>
    rw [hidle.2 unarmed]
    rfl
  | rxData b _ armed =>
    cases hphase : s.block.phase with
    | idle => simp [hidle.1 hphase] at armed
    | addressing | streaming => rfl
  | req =>
    change phaseAfterReq s.block.phase = _
    cases s.block.phase <;> rfl
  | txEnd | reset => cases s.block.phase <;> rfl
  | _ =>
    change s.block.phase = _
    cases s.block.phase <;> rfl

/-! ### The poll counters -/

/-- Which line of send_command can follow which (R140): a wait that goes on has not met the bound (R141). -/
inductive SendMove (p : Params) : SendLine → SendLine → Prop where
  | unarmed (n : Nat) : SendMove p (.preArmed n) .place
  | armed (n : Nat) : SendMove p (.preArmed n) (.preCursor n)
  | preWaitOver (n : Nat) : SendMove p (.preCursor n) .place
  | preWaitGoesOn (n : Nat) (below : n + 1 < p.maxPolls) : SendMove p (.preCursor n) (.preDelay (n + 1))
  | preSlept (n : Nat) : SendMove p (.preDelay n) (.preArmed n)
  | placed : SendMove p .place .clearCursor
  | cleared : SendMove p .clearCursor .raiseStrobe
  | raised : SendMove p .raiseStrobe (.poll 0)
  | consumed (n : Nat) (r : SendResult) : SendMove p (.poll n) (.lowerStrobe r)
  | timedOut (n : Nat) : SendMove p (.poll n) .report
  | waitGoesOn (n : Nat) (below : n + 1 < p.maxPolls) : SendMove p (.poll n) (.pollDelay (n + 1))
  | slept (n : Nat) : SendMove p (.pollDelay n) (.poll n)
  | reported (r : SendResult) : SendMove p .report (.lowerStrobe r)

/-- A wait that does not end has not met the bound (R141). -/
theorem lt_maxPolls_of_not_waitEnds {p : Params} {n : Nat} {draw : Bool} (h : ¬ waitEnds p n draw = true) :
    n < p.maxPolls := by
  simp only [waitEnds, Bool.or_eq_true, decide_eq_true_eq, not_or, not_le] at h
  exact h.1

/-- A line of send_command leads to a line that can follow it, with the same arguments, or returns. -/
theorem sendAdvance_move (p : Params) (draw : Bool) (args : SendArgs) (v : Byte) (l : SendLine) :
    (∃ l', sendAdvance p draw args v l = .line (.send args l') ∧ SendMove p l l') ∨
      ∃ r, sendAdvance p draw args v l = .done (.sent r) := by
  cases l with
  | preArmed n =>
    simp only [sendAdvance]
    split
    · exact .inl ⟨_, rfl, .unarmed n⟩
    · exact .inl ⟨_, rfl, .armed n⟩
  | preCursor n =>
    simp only [sendAdvance, preWaitTimeout]
    split
    · exact .inl ⟨_, rfl, .preWaitOver n⟩
    · split
      · split
        · exact .inl ⟨_, rfl, .preWaitOver n⟩
        · exact .inr ⟨_, rfl⟩
      · next hgoes => exact .inl ⟨_, rfl, .preWaitGoesOn n (lt_maxPolls_of_not_waitEnds hgoes)⟩
  | preDelay n => exact .inl ⟨_, rfl, .preSlept n⟩
  | place => exact .inl ⟨_, rfl, .placed⟩
  | clearCursor => exact .inl ⟨_, rfl, .cleared⟩
  | raiseStrobe => exact .inl ⟨_, rfl, .raised⟩
  | poll n =>
    simp only [sendAdvance, sendFinish]
    split
    · split
      · exact .inl ⟨_, rfl, .consumed n _⟩
      · exact .inr ⟨_, rfl⟩
    · split
      · exact .inl ⟨_, rfl, .timedOut n⟩
      · next hgoes => exact .inl ⟨_, rfl, .waitGoesOn n (lt_maxPolls_of_not_waitEnds hgoes)⟩
  | pollDelay n => exact .inl ⟨_, rfl, .slept n⟩
  | report =>
    simp only [sendAdvance, sendFinish]
    split
    · exact .inl ⟨_, rfl, .reported _⟩
    · exact .inr ⟨_, rfl⟩
  | lowerStrobe r => exact .inr ⟨r, rfl⟩

/-- The lines that follow have counted fewer than MAX_POLLS failing polls too. -/
theorem SendMove.keeps_bounded {p : Params} {l l' : SendLine} (m : SendMove p l l') (hpolls : 0 < p.maxPolls)
    (h : SendCountersBounded p l) : SendCountersBounded p l' := by
  cases m with
  | armed | preSlept | slept => exact h
  | preWaitGoesOn _ below | waitGoesOn _ below => exact below
  | raised => exact hpolls
  | _ => trivial

/-- A line of snapshot_read leads to another of the same read, or returns that read's result. -/
theorem snapAdvance_move (p : Params) (kind : SnapKind) (v : Byte) (l : SnapLine) :
    (∃ l', snapAdvance p kind v l = .line (.snap kind l')) ∨
      ∃ r, snapAdvance p kind v l = .done (.snapshot kind r) := by
  cases l with
  | firstCheck lo n =>
    simp only [snapAdvance]
    split
    · exact .inr ⟨_, rfl⟩
    · exact .inl ⟨_, rfl⟩
  | readByte a left got =>
    simp only [snapAdvance]
    split
    · exact .inl ⟨_, rfl⟩
    · exact .inl ⟨_, rfl⟩
  | lastCheck got => exact .inr ⟨_, rfl⟩

/-- An operation leaves FG where it stands; RESET puts it at the boot (R180). -/
theorem exec_pos {i : Instr} {s t : State} (h : exec i s = .next t) :
    t.fg.pos = s.fg.pos ∨ (i = .reset ∧ t.fg.pos = .boot .driveStrobe) := by
  cases i with
  | reset =>
    cases h
    exact .inr ⟨rfl, rfl⟩
  | _ =>
    cases h
    exact .inl rfl

/-- FG outside send_command has no counter. -/
theorem pollCountersBounded_of_pos {p : Params} {s t : State} (h : PollCountersBounded p s)
    (hpos : t.fg.pos = s.fg.pos ∨ ∀ args l, t.fg.pos ≠ .proc (.send args l)) : PollCountersBounded p t := by
  intro args l hl
  obtain hpos | hpos := hpos
  · exact h args l (hpos.symm.trans hl)
  · exact absurd hl (hpos args l)

/-- FG goes from a line with bounded counters to one with bounded counters, or to its loop. -/
theorem goTo_bounded {p : Params} (hpolls : 0 < p.maxPolls) {draw : Bool} {v : Byte} {q : ProcLine}
    (hq : ∀ args l, q = .send args l → SendCountersBounded p l) (u : State) :
    PollCountersBounded p (u.goTo (procAdvance p draw v q)) := by
  intro args' l' hpos
  cases q with
  | send args l =>
    obtain ⟨l1, h1, m⟩ | ⟨r, h1⟩ := sendAdvance_move p draw args v l
    · rw [procAdvance, h1] at hpos
      cases hpos
      exact m.keeps_bounded hpolls (hq _ l rfl)
    · rw [procAdvance, h1] at hpos
      cases hpos
  | snap kind l =>
    obtain ⟨l1, h1⟩ | ⟨r, h1⟩ := snapAdvance_move p kind v l <;>
    · rw [procAdvance, h1] at hpos
      cases hpos

/-- A call of send_command begins with no failing poll counted. -/
theorem callEntry_bounded {p : Params} (hpolls : 0 < p.maxPolls) {k : Block} {c : Call} {args : SendArgs} {l : SendLine}
    (h : callEntry p k c = .send args l) : SendCountersBounded p l := by
  cases c with
  | send args' =>
    cases h
    exact hpolls
  | snap lo n => cases h
  | readPacket => cases h

/-- Settles O26: the counters move with FG's line only, and a wait goes on only below the bound. -/
theorem stepKeepsPollCountersBounded : Obligations.StepKeepsPollCountersBounded := by
  intro s t hs h
  have hpolls : 0 < specParams.maxPolls := Nat.succ_pos _
  cases stepMove_of_step h with
  | quiet _ _ pos => exact pollCountersBounded_of_pos hs (.inl pos)
  | word w rest i _ _ runs =>
    refine pollCountersBounded_of_pos hs ((exec_pos runs).imp_right ?_)
    rintro ⟨-, hboot⟩
    simp [hboot]
  | boot _ _ pos =>
    refine pollCountersBounded_of_pos hs (.inr ?_)
    obtain ⟨b, hb⟩ | hloop := pos
    · simp [hb]
    · simp [hloop]
  | line q draw s0 u starts _ _ _ moves =>
    rw [moves]
    refine goTo_bounded hpolls (fun args l hq => ?_) u
    obtain hpos | ⟨c, hc⟩ := starts
    · exact hs args l (hpos.trans (congrArg FgPos.proc hq))
    · exact callEntry_bounded hpolls (hc.symm.trans hq)

/-! ### Reset -/

/-- Settles O23: State.reset has the values of R33, FG at its loop and no event. -/
theorem resetStateIsCleanEntry : Obligations.ResetStateIsCleanEntry :=
  ⟨fun _ => rfl, rfl, rfl, rfl, rfl, rfl, rfl, rfl⟩

/-- Settles O24: the region of State.reset lists no cell, and FG stands at its loop. -/
theorem invariantsHoldAtReset : Obligations.InvariantsHoldAtReset :=
  ⟨⟨State.reset_bytes_wf, by decide⟩, fun _ _ h => nomatch h⟩

/-! ### cmd_error and the event history -/

/-- Of the operations only SETERR records an event, and it leaves cmd_error set (R134, R161). -/
theorem exec_events {i : Instr} {s t : State} (h : exec i s = .next t) :
    t.events = s.events ∨ (t.events = s.events ++ [.cmdTimeout] ∧ t.block.cmdError = true) := by
  cases i with
  | seterr =>
    cases h.symm.trans (exec_seterr s)
    exact .inr ⟨rfl, rfl⟩
  | _ =>
    cases h
    exact .inl rfl

/-- No line of a procedure executes CLRERR or RESET (R163). -/
theorem procPrimitive_ne (q : ProcLine) : procPrimitive q ≠ .clrerr ∧ procPrimitive q ≠ .reset := by
  cases q with
  | send args l => cases l <;> exact ⟨nofun, nofun⟩
  | snap kind l => cases l <;> exact ⟨nofun, nofun⟩

/-- A step that clears cmd_error executes CLRERR or RESET as a word. -/
theorem StepMove.cmdError_clearer {s t : State} (m : StepMove s t) (hset : s.block.cmdError = true)
    (hclear : t.block.cmdError = false) :
    ∃ w rest, s.schedule = .word w :: rest ∧ (decodeWord w = .op .clrerr ∨ decodeWord w = .op .reset) := by
  cases m with
  | quiet block => simp [block, hset] at hclear
  | word w rest i head decodes runs =>
    refine ⟨w, rest, head, (Proofs.cmdError_clearer runs hset hclear).imp ?_ ?_⟩ <;>
    · rintro rfl
      exact decodes
  | boot block => obtain hk | hk := block <;> simp [hk, hset] at hclear
  | line q draw s0 u _ block _ runs moves =>
    have hset0 : s0.block.cmdError = true := by rw [block, hset]
    have hclearu : u.block.cmdError = false := by rw [← hclear, moves, State.goTo_block]
    obtain hi | hi := Proofs.cmdError_clearer runs hset0 hclearu
    · exact absurd hi (procPrimitive_ne q).1
    · exact absurd hi (procPrimitive_ne q).2

/-- A step records CMD_TIMEOUT with cmd_error set, or nothing. -/
theorem StepMove.events {s t : State} (m : StepMove s t) :
    t.events = s.events ∨ (t.events = s.events ++ [.cmdTimeout] ∧ t.block.cmdError = true) := by
  cases m with
  | quiet _ events => exact .inl events
  | word w rest i _ _ runs => exact exec_events (s := s.setSchedule rest) runs
  | boot _ events => exact .inl events
  | line q draw s0 u _ _ events runs moves =>
    rw [moves, State.goTo_events, State.goTo_block, ← events]
    exact exec_events runs

/-- Settles O30: what one step can do, for cmd_error and for the history. -/
theorem commandErrorStaysUntilCleared : Obligations.CommandErrorStaysUntilCleared := by
  intro s t h
  have m := stepMove_of_step h
  exact ⟨m.cmdError_clearer, m.events⟩

/-! ### The ghost phase -/

/-- Each operation does the same to everything but the phase, whatever the phase before it (R29). -/
theorem exec_withPhase (i : Instr) (q : Phase) (s : State) :
    OutcomesAgree (withPhase .idle) (exec i s) (exec i (withPhase q s)) := by
  cases i with
  | rx b =>
    cases harmed : s.block.armed with
    | false =>
      rw [exec_rx_unarmed s b harmed, exec_rx_unarmed (withPhase q s) b harmed]
      rfl
    | true =>
      rw [exec_rx_armed s b harmed, exec_rx_armed (withPhase q s) b harmed]
      rfl
  | _ => rfl

/-- FG's move touches no block state. -/
theorem withPhase_goTo (q : Phase) (s : State) (n : ProcNext) : withPhase q (s.goTo n) = (withPhase q s).goTo n := by
  cases n <;> rfl

/-- A line's primitive delivers the same, so that FG moves alike. -/
theorem procStep_withPhase (p : Params) (draw : Bool) (l : ProcLine) (q : Phase) (s : State) :
    OutcomesAgree (withPhase .idle) (procStep p draw l s) (procStep p draw l (withPhase q s)) := by
  obtain ⟨t, ht, -⟩ := exec_moves_block (procPrimitive l) s
  obtain ⟨t', ht', -⟩ := exec_moves_block (procPrimitive l) (withPhase q s)
  have hagree : withPhase .idle t = withPhase .idle t' := by
    have h := exec_withPhase (procPrimitive l) q s
    rwa [ht, ht'] at h
  have hresult : t.fg.result = t'.fg.result := congrArg (·.fg.result) hagree
  rw [procStep_of_next ht, procStep_of_next ht', OutcomesAgree, withPhase_goTo, withPhase_goTo, hagree, hresult]

/-- A call begins alike: REQ_UPDATE_EFFECT, which might look at the phase, has no effect (R148). -/
theorem fgStep_withPhase (draw : Bool) (q : Phase) (s : State) :
    OutcomesAgree (withPhase .idle) (fgStep specParams draw s) (fgStep specParams draw (withPhase q s)) := by
  have hnone : NoUpdateEffect specParams := fun _ _ => rfl
  cases hpos : s.fg.pos with
  | boot b =>
    rw [fgStep_boot hpos, fgStep_boot (s := withPhase q s) hpos]
    cases b <;> rfl
  | proc l =>
    rw [fgStep_proc hpos, fgStep_proc (s := withPhase q s) hpos]
    exact procStep_withPhase _ _ _ _ _
  | loop =>
    cases hcalls : s.fg.calls with
    | nil =>
      rw [fgStep_idle hpos hcalls, fgStep_idle (s := withPhase q s) hpos hcalls]
      rfl
    | cons c cs =>
      have hentry (k k' : Block) : callEntry specParams k c = callEntry specParams k' c := by
        cases c <;> simp [callEntry]
      rw [fgStep_call hpos hcalls, fgStep_call (s := withPhase q s) hpos hcalls, callBlock_none hnone,
        callBlock_none hnone, hentry (withPhase q s).block s.block]
      exact procStep_withPhase _ _ _ _ _

/-- Settles O29: of the inputs only a word and FG's turn touch the block, and neither looks at the phase. -/
theorem phaseInfluencesNothingElse : Obligations.PhaseInfluencesNothingElse := by
  intro s q
  cases hs : s.schedule with
  | nil =>
    rw [step_of_empty_schedule hs, step_of_empty_schedule (s := withPhase q s) hs]
    rfl
  | cons x rest =>
    rw [step_of_schedule hs, step_of_schedule (s := withPhase q s) hs]
    cases x with
    | word w =>
      obtain ⟨i, hw⟩ | hw := decodeWord_cases w
      · rw [runInput_word hw, runInput_word hw, execWith_specParams, execWith_specParams]
        exact exec_withPhase i q (s.setSchedule rest)
      · rw [runInput_invalid hw, runInput_invalid hw]
        rfl
    | fg draw => exact fgStep_withPhase draw q (s.setSchedule rest)
    | timer => rfl

/-! ### Foreground operations done twice -/

/-- A block is the same as itself. -/
theorem sameBlock_refl (k : Block) : SameBlock k k := ⟨fun _ => rfl, rfl, rfl, rfl, rfl, rfl⟩

/-- A foreground read delivers a value that depends on the block alone (R103 to R106). -/
theorem exec_fgRead {i : Instr} (hi : agentOf i = .fgRead) :
    ∃ value : Block → Byte, ∀ s, exec i s = .next (s.deliver (value s.block)) := by
  cases i with
  | ldb a => exact ⟨(·.readByte a), fun s => exec_ldb s a⟩
  | ldcur => exact ⟨(·.cursor), exec_ldcur⟩
  | ldarm => exact ⟨(flagByte ·.armed), exec_ldarm⟩
  | lderr => exact ⟨(flagByte ·.cmdError), exec_lderr⟩
  | _ => exact nomatch hi

/-- A foreground write leaves FG alone and does to the block what a second one of it does not change further (R46). -/
theorem exec_fgWrite {i : Instr} (hi : agentOf i = .fgWrite) :
    ∃ write : Block → Block, (∀ k, SameBlock (write k) (write (write k))) ∧
      ∀ s, ∃ t, exec i s = .next t ∧ t.block = write s.block ∧ t.fg = s.fg := by
  cases i with
  | stmb d =>
    refine ⟨(·.writeByte 0 d), fun k => ⟨fun a => ?_, rfl, rfl, rfl, rfl, rfl⟩, fun s => ⟨_, exec_stmb s d, rfl, rfl⟩⟩
    simp only [Block.readByte_writeByte]
    split_ifs <;> rfl
  | clrcur => exact ⟨_, fun k => sameBlock_refl (k.setCursor 0), fun s => ⟨_, exec_clrcur s, rfl, rfl⟩⟩
  | stbh => exact ⟨_, fun k => sameBlock_refl (k.setStrobe true), fun s => ⟨_, exec_stbh s, rfl, rfl⟩⟩
  | stbl => exact ⟨_, fun k => sameBlock_refl (k.setStrobe false), fun s => ⟨_, exec_stbl s, rfl, rfl⟩⟩
  | seterr => exact ⟨_, fun k => sameBlock_refl (k.setCmdError true), fun s => ⟨_, exec_seterr s, rfl, rfl⟩⟩
  | clrerr => exact ⟨_, fun k => sameBlock_refl (k.setCmdError false), fun s => ⟨_, exec_clrerr s, rfl, rfl⟩⟩
  | delay => exact ⟨id, sameBlock_refl, fun s => ⟨_, exec_delay s, rfl, rfl⟩⟩
  | _ => exact nomatch hi

/-- Settles O31: a read done twice delivers the same value from the same block; two REQ each drive the byte at the
cursor. -/
theorem foregroundOperationsAreIdempotent : Obligations.ForegroundOperationsAreIdempotent := by
  refine ⟨fun i s hi => ?_, fun s => ⟨_, _, exec_req s, exec_req _, ?_⟩⟩
  · obtain hi | hi := hi
    · obtain ⟨value, hread⟩ := exec_fgRead hi
      exact ⟨_, _, hread s, hread _, sameBlock_refl _, rfl, fun _ => sameBlock_refl _⟩
    · obtain ⟨write, hidem, hwrite⟩ := exec_fgWrite hi
      obtain ⟨t, ht, htblock, -⟩ := hwrite s
      obtain ⟨u, hu, hublock, hufg⟩ := hwrite t
      refine ⟨t, u, ht, hu, ?_, congrArg Foreground.result hufg, fun hread => ?_⟩
      · rw [hublock, htblock]
        exact hidem s.block
      · exact nomatch hi.symm.trans hread
  · exact List.append_assoc _ _ _

/-! ### The region's canonical form -/

/-- A region in canonical form holds a cell exactly where it reads the cell's byte and that is not 0x00. -/
theorem mem_iff_read {m : Memory} (h : m.Pairwise (fun c d => c.1 < d.1)) (hne : ∀ c ∈ m, c.2 ≠ 0) (c : Host.Cell) :
    c ∈ m ↔ Memory.read m c.1 = c.2 ∧ c.2 ≠ 0 := by
  induction m with
  | nil => exact ⟨nofun, fun ⟨hread, hc⟩ => absurd hread.symm hc⟩
  | cons d m ih =>
    obtain ⟨hlt, hm⟩ := List.pairwise_cons.1 h
    obtain ⟨hd, hne⟩ := List.forall_mem_cons.1 hne
    rw [List.mem_cons, ih hm hne, Memory.read]
    by_cases haddr : d.1 = c.1
    · have habsent : ¬ (Memory.read m c.1 = c.2 ∧ c.2 ≠ 0) := fun hc =>
        absurd (hlt c ((ih hm hne).2 hc)) (by omega)
      rw [if_pos haddr, or_iff_left habsent]
      constructor
      · rintro rfl
        exact ⟨rfl, hd⟩
      · rintro ⟨hbyte, -⟩
        exact (Prod.ext haddr hbyte).symm
    · rw [if_neg haddr, or_iff_right]
      rintro rfl
      exact haddr rfl

/-- No cell of a region in canonical form lies beyond address 255. -/
theorem read_beyond {m : Memory} (h : ∀ c ∈ m, c.1 < 256) {a : Nat} (ha : 256 ≤ a) : Memory.read m a = 0 := by
  induction m with
  | nil => rfl
  | cons d m ih =>
    obtain ⟨hd, hm⟩ := List.forall_mem_cons.1 h
    rw [Memory.read, if_neg (by omega), ih hm]

/-- Settles O32: two such regions have the same cells, and there is one rising order of these. -/
theorem canonicalRegionsAreEqualWhenTheyReadEqual : Obligations.CanonicalRegionsAreEqualWhenTheyReadEqual := by
  rintro m m' ⟨hrise, hcells⟩ ⟨hrise', hcells'⟩ hread
  have hreads (a : Nat) : Memory.read m a = Memory.read m' a := by
    by_cases ha : a < 256
    · simpa [Nat.mod_eq_of_lt ha] using hread (BitVec.ofNat 8 a)
    · rw [read_beyond (fun c hc => (hcells c hc).1) (by omega), read_beyond (fun c hc => (hcells' c hc).1) (by omega)]
  have hmem (c : Host.Cell) : c ∈ m ↔ c ∈ m' := by
    rw [mem_iff_read hrise (fun c hc => (hcells c hc).2), mem_iff_read hrise' (fun c hc => (hcells' c hc).2), hreads]
  have hnodup {l : Memory} (h : l.Pairwise (fun c d => c.1 < d.1)) : l.Nodup :=
    h.imp fun hlt heq => absurd (congrArg Prod.fst heq) (Nat.ne_of_lt hlt)
  have hperm : m.Perm m' := (List.perm_ext_iff_of_nodup (hnodup hrise) (hnodup hrise')).2 hmem
  exact hperm.eq_of_pairwise (fun c d _ _ hcd hdc => absurd hcd (Nat.lt_asymm hdc)) hrise hrise'

end Sys2Proof.Proofs

/-! PROOF. The cursor's walk (R42, R90): N data bytes and N requests from any cursor, the register access made of them,
and the address decoder (R100). -/

namespace Sys2Proof.Proofs

open Sys2Proof.Machine Sys2Proof.Safety

/-- The list of operations goes on after the first. -/
theorem execAll_cons {i : Instr} {is : List Instr} {s t : State} (h : exec i s = .next t) :
    execAll (i :: is) s = execAll is t := by
  simp [execAll, h]

/-- Two lists of operations, one after the other. -/
theorem execAll_append {is js : List Instr} {s t : State} (h : execAll is s = .next t) :
    execAll (is ++ js) s = execAll js t := by
  induction is generalizing s with
  | nil =>
    cases h
    rfl
  | cons i is ih =>
    obtain ⟨u, hu, -⟩ := exec_moves_block i s
    rw [execAll_cons hu] at h
    rw [List.cons_append, execAll_cons hu]
    exact ih h

/-- The address k steps after the next one is the address k + 1 steps on, mod 256 (R42). -/
theorem ofNat_nextAddr_add (c : Byte) (k : Nat) :
    BitVec.ofNat 8 ((nextAddr c).toNat + k) = BitVec.ofNat 8 (c.toNat + (k + 1)) := by
  apply BitVec.eq_of_toNat_eq
  simp only [BitVec.toNat_ofNat, toNat_nextAddr]
  omega

/-- Settles O33: the first byte lands at the cursor, unless the walk of the others comes round to it; the others walk
on from the next address. -/
theorem dataBytesWalkTheRegion : Obligations.DataBytesWalkTheRegion := by
  intro s ds harmed
  induction ds generalizing s with
  | nil =>
    refine ⟨s, rfl, ?_, harmed, nofun, fun _ _ => rfl⟩
    simp [Nat.mod_eq_of_lt s.block.cursor.isLt]
  | cons d ds ih =>
    have hfirst := exec_rx_armed s d harmed
    generalize hk : ((s.block.writeByte s.block.cursor d).setCursor (nextAddr s.block.cursor)).setPhase .streaming = k
      at hfirst
    have hcursor : k.cursor = nextAddr s.block.cursor := by rw [← hk]; rfl
    have hread (a : Byte) : k.readByte a = if a = s.block.cursor then d else s.block.readByte a := by
      rw [← hk]
      exact Block.readByte_writeByte _ _ _ _
    obtain ⟨t, ht, htcursor, htarmed, hland, hkeep⟩ := ih (s.setBlock k) (by rw [← hk]; exact harmed)
    simp only [State.setBlock_block, hcursor, toNat_nextAddr] at htcursor hland hkeep
    refine ⟨t, ?_, ?_, htarmed, fun j e hj hlast => ?_, fun a ha => ?_⟩
    · rw [List.map_cons, execAll_cons hfirst, ht]
    · rw [htcursor, List.length_cons]
      omega
    · cases j with
      | zero =>
        cases hj
        rw [Nat.add_zero, BitVec.ofNat_toNat, BitVec.setWidth_eq, hkeep, hread, if_pos rfl]
        intro j hj
        rw [List.length_cons] at hlast
        omega
      | succ j =>
        rw [List.length_cons] at hlast
        rw [← ofNat_nextAddr_add, toNat_nextAddr]
        exact hland j e hj (by omega)
    · have hne : a ≠ s.block.cursor := by
        rintro rfl
        exact ha 0 (by simp) (by simp [Nat.mod_eq_of_lt s.block.cursor.isLt])
      rw [hkeep, hread, if_neg hne]
      intro j hj
      have := ha (j + 1) (by simpa using hj)
      omega

/-- N requests: what they drive, where the cursor ends, and that they leave the region, armed and FG's side alone. -/
theorem requests_walk (s : State) (n : Nat) :
    ∃ t, execAll (List.replicate n .req) s = .next t ∧
      t.driven = s.driven ++
        (List.range n).map (fun k => s.block.readByte (BitVec.ofNat 8 (s.block.cursor.toNat + k))) ∧
      t.block.cursor.toNat = (s.block.cursor.toNat + n) % 256 ∧ SameBytes s.block t.block ∧
      t.block.armed = s.block.armed ∧ SameAgents s t := by
  induction n generalizing s with
  | zero =>
    refine ⟨s, rfl, by simp, ?_, fun _ => rfl, rfl, rfl, rfl, rfl⟩
    simp [Nat.mod_eq_of_lt s.block.cursor.isLt]
  | succ n ih =>
    obtain ⟨t, ht, hdriven, hcursor, hbytes, harmed, hagents⟩ := ih _
    refine ⟨t, (execAll_cons (exec_req s)).trans ht, ?_, ?_, hbytes, harmed, hagents⟩
    · rw [hdriven, List.range_succ_eq_map, List.map_cons, List.map_map]
      simp only [State.drive_driven, State.setBlock_driven, State.drive_block, State.setBlock_block,
        Block.setPhase_cursor, Block.setCursor_cursor, ofNat_nextAddr_add, Block.readByte_setPhase,
        Block.readByte_setCursor, List.append_assoc, Nat.add_zero, BitVec.ofNat_toNat, BitVec.setWidth_eq]
      rfl
    · rw [hcursor]
      simp only [State.drive_block, State.setBlock_block, Block.setPhase_cursor, Block.setCursor_cursor, toNat_nextAddr]
      omega

/-- Settles O34: the walk of the requests, as far as the block goes. -/
theorem requestsWalkTheRegion : Obligations.RequestsWalkTheRegion := by
  intro s n
  obtain ⟨t, ht, hdriven, hcursor, hbytes, harmed, -⟩ := requests_walk s n
  exact ⟨t, ht, hdriven, hcursor, hbytes, harmed⟩

/-- Settles O35: RX leaves the cursor at the pointer, END disarms and keeps it, and the requests walk from there. -/
theorem pointerThenReadDrivesFromThePointer : Obligations.PointerThenReadDrivesFromThePointer := by
  intro s a n unarmed
  have hpointer := exec_rx_unarmed s a unarmed
  obtain ⟨t, ht, hdriven, hcursor, hbytes, harmed, -⟩ := requests_walk _ n
  have hrun := (execAll_cons hpointer).trans ((execAll_cons (exec_txEnd _)).trans
    ((execAll_append ht).trans (execAll_cons (is := []) (exec_txEnd t))))
  exact ⟨_, hrun, hdriven, hcursor, hbytes, rfl⟩

/-- Settles O36: the tag goes to the base, and every other byte to itself. -/
theorem addressDecoderHasOneTag : Obligations.AddressDecoderHasOneTag := by
  refine ⟨fun tag base hne => ⟨fun b => ?_, fun v => ?_, fun b => ?_⟩, fun b => rfl, fun s unarmed => ?_⟩
  · unfold addrDecodeWith
    split
    case isTrue htag => simp [htag, hne.symm]
    case isFalse htag => simp [htag]
  · unfold addrDecodeWith
    constructor
    · rintro ⟨b, rfl⟩
      split
      case isTrue => exact hne.symm
      case isFalse htag => exact htag
    · exact fun hv => ⟨v, if_neg hv⟩
  · unfold addrDecodeWith
    split
    case isTrue htag => simp [htag]
    case isFalse htag => simp [htag]
  · rw [exec_rx_unarmed s _ unarmed, exec_rx_unarmed s _ unarmed]
    rfl

end Sys2Proof.Proofs

/-! PROOF. The parameters an operation depends on (R7, R8), and RESET with the boot after it (R180, R182). -/

namespace Sys2Proof.Proofs

open Sys2Proof.Machine Sys2Proof.Safety

/-- With the spec's VERSION_TAG and STROBE_RESET_LEVEL every operation is the spec's. -/
theorem execWith_of_spec_values {p : Params} (htag : p.versionTag = 0x02) (hlevel : p.strobeResetLevel = false)
    (i : Instr) (s : State) : execWith p i s = exec i s := by
  cases i with
  | rx b =>
    cases harmed : s.block.armed with
    | false =>
      rw [execWith_rx_unarmed p s b harmed, exec_rx_unarmed s b harmed, htag]
      rfl
    | true => exact execWith_rx_armed p s b harmed
  | reset => rw [execWith_reset, exec_reset, Block.powerUp_eq, hlevel]; rfl
  | _ => rfl

/-- Settles O60: RX's address phase and RESET under given parameters, and all else as without them. -/
theorem operationsUnderEveryParameter : Obligations.OperationsUnderEveryParameter := by
  intro p s
  refine ⟨fun b unarmed => ?_, fun b => execWith_rx_armed p s b, ⟨_, execWith_reset p s, rfl, rfl⟩,
    fun i => execWith_eq_exec p s, fun htag hlevel i => execWith_of_spec_values htag hlevel i s⟩
  exact ⟨_, execWith_rx_unarmed p s b unarmed, rfl, rfl, rfl, fun _ => rfl, rfl, rfl, sameAgents_setBlock _ _, rfl⟩

/-- Settles O21: the block is that of State.reset, which is unarmed and reads 0x00 everywhere. -/
theorem resetRestoresEveryField : Obligations.ResetRestoresEveryField := by
  refine ⟨by decide, fun s => ⟨_, exec_reset s, fun _ => rfl, rfl, rfl, rfl, rfl, rfl, rfl, rfl, rfl, fun b => ?_, ?_⟩⟩
  · exact ⟨_, exec_rx_unarmed _ b rfl, rfl, fun _ => rfl⟩
  · exact ⟨_, exec_req _, rfl⟩

/-- Settles O22: RESET touches the block and FG's position only, and each boot step the position and the strobe. -/
theorem bootAfterResetReachesTheLoop : Obligations.BootAfterResetReachesTheLoop := by
  intro p d1 d2 d3 d4 s
  have hreset : runInput p (.word 0xF000) s = .next _ := (runInput_word (by decide) s).trans (execWith_reset p s)
  refine ⟨⟨_, execWith_reset p s, rfl, rfl, rfl, rfl, rfl⟩, _, (runInputs_cons hreset).trans rfl, rfl, rfl, rfl, rfl⟩

end Sys2Proof.Proofs

/-! PROOF. The lines of send_command (R140 to R147), each as one FG step: the rule of the line's primitive and FG's
move. -/

namespace Sys2Proof.Proofs

open Sys2Proof.Machine Sys2Proof.Safety

/-- FG's step at a line of a procedure: the line's primitive, and FG's move on the value it delivered. -/
theorem fgStep_line {p : Params} {draw : Bool} {s u : State} {q : ProcLine} (hpos : s.fg.pos = .proc q)
    (hexec : exec (procPrimitive q) s = .next u) :
    fgStep p draw s = .next (u.goTo (procAdvance p draw u.fg.result q)) :=
  (fgStep_proc hpos).trans (procStep_of_next hexec)

/-- A failing poll ends the wait by the bound or by the draw (R141). -/
theorem waitEnds_iff (p : Params) (n : Nat) (draw : Bool) :
    waitEnds p n draw = true ↔ p.maxPolls ≤ n ∨ draw = true := by
  simp [waitEnds]

section lines
variable {p : Params} {draw : Bool} {args : SendArgs} {n : Nat} {s : State}

theorem fgStep_preArmed (hpos : s.fg.pos = .proc (.send args (.preArmed n))) :
    fgStep p draw s = .next ((s.deliver (flagByte s.block.armed)).setFgPos
      (.proc (.send args (if s.block.armed = false then .place else .preCursor n)))) := by
  rw [fgStep_line hpos (exec_ldarm s)]
  cases harmed : s.block.armed <;> rfl

theorem fgStep_preArmed_unarmed (hpos : s.fg.pos = .proc (.send args (.preArmed n))) (h : s.block.armed = false) :
    fgStep p draw s = .next ((s.deliver 0).setFgPos (.proc (.send args .place))) := by
  rw [fgStep_preArmed hpos, h]
  rfl

theorem fgStep_preArmed_armed (hpos : s.fg.pos = .proc (.send args (.preArmed n))) (h : s.block.armed = true) :
    fgStep p draw s = .next ((s.deliver 1).setFgPos (.proc (.send args (.preCursor n)))) := by
  rw [fgStep_preArmed hpos, h]
  rfl

/-- The wait is over where LDCUR reads 0 (R142). -/
theorem fgStep_preCursor_zero (hpos : s.fg.pos = .proc (.send args (.preCursor n))) (hcursor : s.block.cursor = 0) :
    fgStep p draw s = .next ((s.deliver s.block.cursor).setFgPos (.proc (.send args .place))) := by
  rw [fgStep_line hpos (exec_ldcur s), procAdvance, sendAdvance, State.deliver_result, if_pos hcursor]
  rfl

/-- A failing poll that ends the wait (R141, R142). -/
theorem fgStep_preCursor_over (hpos : s.fg.pos = .proc (.send args (.preCursor n))) (hcursor : s.block.cursor ≠ 0)
    (hends : p.maxPolls ≤ n + 1 ∨ draw = true) :
    fgStep p draw s = .next ((s.deliver s.block.cursor).goTo (preWaitTimeout p args)) := by
  rw [fgStep_line hpos (exec_ldcur s), procAdvance, sendAdvance, State.deliver_result, if_neg hcursor,
    if_pos ((waitEnds_iff p (n + 1) draw).2 hends)]

/-- A failing poll that does not end the wait (R142). -/
theorem fgStep_preCursor_goesOn (hpos : s.fg.pos = .proc (.send args (.preCursor n))) (hcursor : s.block.cursor ≠ 0)
    (hgoes : ¬ (p.maxPolls ≤ n + 1 ∨ draw = true)) :
    fgStep p draw s = .next ((s.deliver s.block.cursor).setFgPos (.proc (.send args (.preDelay (n + 1))))) := by
  rw [fgStep_line hpos (exec_ldcur s), procAdvance, sendAdvance, State.deliver_result, if_neg hcursor,
    if_neg (mt (waitEnds_iff p (n + 1) draw).1 hgoes)]
  rfl

theorem fgStep_preDelay (hpos : s.fg.pos = .proc (.send args (.preDelay n))) :
    fgStep p draw s = .next (s.setFgPos (.proc (.send args (.preArmed n)))) :=
  fgStep_line hpos (exec_delay s)

theorem fgStep_place (hpos : s.fg.pos = .proc (.send args .place)) :
    fgStep p draw s = .next ((s.setBlock (s.block.writeByte 0 args.byte)).setFgPos (.proc (.send args .clearCursor))) :=
  fgStep_line hpos (exec_stmb s args.byte)

theorem fgStep_clearCursor (hpos : s.fg.pos = .proc (.send args .clearCursor)) :
    fgStep p draw s = .next ((s.setBlock (s.block.setCursor 0)).setFgPos (.proc (.send args .raiseStrobe))) :=
  fgStep_line hpos (exec_clrcur s)

theorem fgStep_raiseStrobe (hpos : s.fg.pos = .proc (.send args .raiseStrobe)) :
    fgStep p draw s = .next ((s.setBlock (s.block.setStrobe true)).setFgPos (.proc (.send args (.poll 0)))) :=
  fgStep_line hpos (exec_stbh s)

/-- A poll that reads a cursor that is not 0 goes to step 6 with SUCCESS (R145). -/
theorem fgStep_poll_consumed (hpos : s.fg.pos = .proc (.send args (.poll n))) (hcursor : s.block.cursor ≠ 0) :
    fgStep p draw s = .next ((s.deliver s.block.cursor).goTo (sendFinish args .success)) := by
  rw [fgStep_line hpos (exec_ldcur s), procAdvance, sendAdvance, State.deliver_result, if_pos hcursor]

/-- A poll that reads the cursor 0 is followed by the report or by DELAY and a fresh poll (R145). -/
theorem fgStep_poll_failing (hpos : s.fg.pos = .proc (.send args (.poll n))) (hcursor : s.block.cursor = 0) :
    fgStep p draw s = .next ((s.deliver 0).setFgPos
      (.proc (.send args (if p.maxPolls ≤ n + 1 ∨ draw = true then .report else .pollDelay (n + 1))))) := by
  rw [fgStep_line hpos (exec_ldcur s), procAdvance, sendAdvance, State.deliver_result, if_neg (not_not_intro hcursor)]
  simp only [waitEnds_iff, hcursor]
  split_ifs <;> rfl

theorem fgStep_pollDelay (hpos : s.fg.pos = .proc (.send args (.pollDelay n))) :
    fgStep p draw s = .next (s.setFgPos (.proc (.send args (.poll n)))) :=
  fgStep_line hpos (exec_delay s)

theorem fgStep_report (hpos : s.fg.pos = .proc (.send args .report)) :
    fgStep p draw s = .next (((s.setBlock (s.block.setCmdError true)).raiseEvent .cmdTimeout).goTo
      (sendFinish args .failure)) :=
  fgStep_line hpos (exec_seterr s)

theorem fgStep_lowerStrobe {r : SendResult} (hpos : s.fg.pos = .proc (.send args (.lowerStrobe r))) :
    fgStep p draw s = .next ((s.setBlock (s.block.setStrobe false)).procReturn (.sent r)) :=
  fgStep_line hpos (exec_stbl s)

end lines

/-- Step 6 follows where clear_strobe_after asks for it (R147). -/
theorem sendFinish_clear {args : SendArgs} (h : args.clr = true) (r : SendResult) :
    sendFinish args r = .line (.send args (.lowerStrobe r)) :=
  if_pos h

/-- Without clear_strobe_after the call returns (R147). -/
theorem sendFinish_keep {args : SendArgs} (h : args.clr = false) (r : SendResult) :
    sendFinish args r = .done (.sent r) :=
  if_neg (by simp [h])

/-- Settles O37: the rules of the three lines; they change FG only. -/
theorem preconditionWaitLines : Obligations.PreconditionWaitLines := by
  intro p draw args n s
  refine ⟨fun hpos => ?_, fun hpos => ?_, fun hpos => ?_⟩
  · exact ⟨_, fgStep_preArmed hpos, sameBlock_refl _, rfl, rfl, rfl⟩
  · by_cases hcursor : s.block.cursor = 0
    · refine ⟨_, fgStep_preCursor_zero hpos hcursor, sameBlock_refl _, rfl, ?_⟩
      rw [if_pos (.inl hcursor)]
      exact ⟨rfl, rfl⟩
    · by_cases hends : p.maxPolls ≤ n + 1 ∨ draw = true
      · have hover := fgStep_preCursor_over hpos hcursor hends
        cases haction : p.preWait with
        | proceed =>
          rw [preWaitTimeout, haction] at hover
          refine ⟨_, hover, sameBlock_refl _, rfl, ?_⟩
          rw [if_pos (.inr ⟨hends, rfl⟩)]
          exact ⟨rfl, rfl⟩
        | fail =>
          rw [preWaitTimeout, haction] at hover
          refine ⟨_, hover, sameBlock_refl _, rfl, ?_⟩
          have hstop : ¬ (s.block.cursor = 0 ∨ (p.maxPolls ≤ n + 1 ∨ draw = true) ∧ PreWaitAction.fail = .proceed) :=
            not_or_intro hcursor fun h => nomatch h.2
          rw [if_neg hstop, if_pos hends]
          exact ⟨rfl, rfl⟩
      · refine ⟨_, fgStep_preCursor_goesOn hpos hcursor hends, sameBlock_refl _, rfl, ?_⟩
        rw [if_neg (not_or_intro hcursor fun h => hends h.1), if_neg hends]
        exact ⟨rfl, rfl⟩
  · exact ⟨_, fgStep_preDelay hpos, sameBlock_refl _, rfl, rfl, rfl⟩

/-- Settles O39: by what the poll reads, and then by clear_strobe_after or by the bound and the draw. -/
theorem consumptionPollLine : Obligations.ConsumptionPollLine := by
  intro p draw args n s hpos
  by_cases hcursor : s.block.cursor = 0
  · refine ⟨_, fgStep_poll_failing hpos hcursor, sameBlock_refl _, rfl, ?_⟩
    rw [if_neg (not_not_intro hcursor)]
    exact ⟨rfl, rfl⟩
  · refine ⟨_, fgStep_poll_consumed hpos hcursor, ?_, ?_, ?_⟩
    · rw [State.goTo_block]
      exact sameBlock_refl _
    · rw [State.goTo_events]
      rfl
    · rw [if_pos hcursor]
      constructor <;> intro hclr
      · rw [sendFinish_clear hclr]
        exact ⟨rfl, rfl⟩
      · rw [sendFinish_keep hclr]
        exact ⟨rfl, rfl⟩

/-- Settles O40: SETERR and STBL each change one bit of the block. -/
theorem timeoutReportAndStrobeLines : Obligations.TimeoutReportAndStrobeLines := by
  intro p draw args s
  refine ⟨fun hpos => ⟨_, fgStep_report hpos, ?_⟩, fun r hpos => ⟨_, fgStep_lowerStrobe hpos, ?_⟩⟩
  · cases hclr : args.clr with
    | true =>
      rw [sendFinish_clear hclr]
      exact ⟨rfl, rfl, fun _ => rfl, rfl, rfl, rfl, rfl, rfl, rfl⟩
    | false =>
      rw [sendFinish_keep hclr]
      exact ⟨rfl, rfl, fun _ => rfl, rfl, rfl, rfl, rfl, rfl, rfl⟩
  · exact ⟨rfl, fun _ => rfl, rfl, rfl, rfl, rfl, rfl, rfl, rfl⟩

end Sys2Proof.Proofs

/-! PROOF. Runs of send_command with and without bus events in between (R143 to R149, R190 to R193, R198). -/

namespace Sys2Proof.Proofs

open Sys2Proof.Machine Sys2Proof.Safety

section run
variable {p : Params} {xs : List Input} {s t : State} {o : Host.Outcome State Fault Refusal}

/-- A run of two parts. -/
theorem run_append {ys : List Input} (h : runInputs p xs s = .next t) (rest : runInputs p ys t = o) :
    runInputs p (xs ++ ys) s = o :=
  (runInputs_append xs ys h).trans rest

/-- A run whose first input is FG's turn. -/
theorem run_fg {draw : Bool} (h : fgStep p draw s = .next t) (rest : runInputs p xs t = o) :
    runInputs p (.fg draw :: xs) s = o :=
  (runInputs_cons (x := .fg draw) h).trans rest

/-- A run whose first input is the word of an operation. -/
theorem run_word {w : OpWord} {i : Instr} (hw : decodeWord w = .op i) (h : execWith p i s = .next t)
    (rest : runInputs p xs t = o) : runInputs p (.word w :: xs) s = o :=
  (runInputs_cons ((runInput_word hw s).trans h)).trans rest

/-- The word 0x1100 is REQ. -/
theorem run_req (rest : runInputs p xs ((s.setBlock ((s.block.setCursor (nextAddr s.block.cursor)).setPhase
      (phaseAfterReq s.block.phase))).drive (s.block.readByte s.block.cursor)) = o) :
    runInputs p (.word 0x1100 :: xs) s = o :=
  run_word (i := .req) (by decide) (exec_req s) rest

/-- The word 0x1200 is END. -/
theorem run_txEnd (rest : runInputs p xs (s.setBlock ((s.block.setArmed false).setPhase .idle)) = o) :
    runInputs p (.word 0x1200 :: xs) s = o :=
  run_word (i := .txEnd) (by decide) (exec_txEnd s) rest

/-- The word of RX on an unarmed block. -/
theorem run_rx_unarmed {b : Byte} (h : s.block.armed = false)
    (rest : runInputs p xs (s.setBlock (((s.block.setCursor (addrDecodeWith p.versionTag Config.payloadBase b)).setArmed
      true).setPhase .addressing)) = o) : runInputs p (.word (encode (.rx b)) :: xs) s = o :=
  run_word (decodeOfEncodeIsIdentity _) (execWith_rx_unarmed p s b h) rest

/-- The word of RX on an armed block. -/
theorem run_rx_armed {b : Byte} (h : s.block.armed = true)
    (rest : runInputs p xs (s.setBlock (((s.block.writeByte s.block.cursor b).setCursor
      (nextAddr s.block.cursor)).setPhase .streaming)) = o) : runInputs p (.word (encode (.rx b)) :: xs) s = o :=
  run_word (decodeOfEncodeIsIdentity _) ((execWith_rx_armed p s b h).trans (exec_rx_armed s b h)) rest

end run

/-- The block after steps 2 and 3 of send_command (R143, R144). -/
def announced (k : Block) (d : Byte) : Block := ((k.writeByte 0 d).setCursor 0).setStrobe true

/-- Steps 2 and 3 with nothing in between. -/
theorem run_announce {p : Params} {d1 d2 d3 : Bool} {args : SendArgs} {xs : List Input} {s : State}
    {o : Host.Outcome State Fault Refusal} (hpos : s.fg.pos = .proc (.send args .place))
    (rest : runInputs p xs ((s.setBlock (announced s.block args.byte)).setFgPos (.proc (.send args (.poll 0)))) = o) :
    runInputs p (.fg d1 :: .fg d2 :: .fg d3 :: xs) s = o :=
  run_fg (fgStep_place hpos) (run_fg (fgStep_clearCursor rfl) (run_fg (fgStep_raiseStrobe rfl) rest))

/-- Settles O38: the block of steps 2 and 3, read field by field. -/
theorem commandIsPlacedThenAnnounced : Obligations.CommandIsPlacedThenAnnounced := by
  intro p d1 d2 d3 args s hpos
  refine ⟨_, run_announce hpos rfl, ?_, sameBytesBut_writeByte _ _ _, rfl, rfl, rfl, rfl, rfl, rfl, rfl, rfl⟩
  simp [announced]

/-- Settles O43: REQ finds the cursor at 0 and leaves it at 1, which END keeps and the poll reads. -/
theorem readMailboxGivesSuccess : Obligations.ReadMailboxGivesSuccess := by
  intro p d1 d2 d3 d4 args s hpos hclr
  have hone : nextAddr 0 ≠ 0 := by decide
  have hrun : runInputs p [.fg d1, .fg d2, .fg d3, .word 0x1100, .word 0x1200, .fg d4] s = .next _ :=
    run_announce hpos (run_req (run_txEnd (run_fg (fgStep_poll_consumed rfl hone) rfl)))
  rw [sendFinish_keep hclr] at hrun
  refine ⟨_, hrun, ?_, rfl, rfl, rfl, rfl, rfl⟩
  simp [announced]

/-- No operation but RESET depends on FG's position, or writes it. -/
theorem exec_setFgPos {i : Instr} (hi : i ≠ .reset) (pos : FgPos) {s t : State} (h : exec i s = .next t) :
    exec i (s.setFgPos pos) = .next (t.setFgPos pos) := by
  cases i with
  | reset => exact absurd rfl hi
  | _ =>
    cases h
    rfl

/-- FG's move does not depend on the position it moves from. -/
theorem goTo_setFgPos (s : State) (pos : FgPos) (n : ProcNext) : (s.setFgPos pos).goTo n = s.goTo n := by
  cases n <;> rfl

/-- A call begins at its first line, whose primitive is the call's first FG step (log 12). -/
theorem fgStep_begin {p : Params} {draw : Bool} {c : Call} {cs : List Call} {s : State} (hpos : s.fg.pos = .loop)
    (hcalls : s.fg.calls = c :: cs) :
    fgStep p draw s = fgStep p draw (((s.setCalls cs).setBlock (callBlock p s.block c)).setFgPos
      (.proc (callEntry p s.block c))) := by
  rw [fgStep_call hpos hcalls]
  generalize (s.setCalls cs).setBlock (callBlock p s.block c) = s0
  generalize callEntry p s.block c = q
  obtain ⟨t, ht, -⟩ := exec_moves_block (procPrimitive q) s0
  have htline := exec_setFgPos (procPrimitive_ne q).2 (.proc q) ht
  rw [procStep_of_next ht, fgStep_line (s := s0.setFgPos (.proc q)) rfl htline, goTo_setFgPos]
  rfl

/-- A call of send_command under a REQ_UPDATE_EFFECT without effect begins at its first line, with nothing else
changed. -/
theorem fgStep_begin_send {p : Params} (hnone : NoUpdateEffect p) {draw : Bool} {args : SendArgs} {cs : List Call}
    {s : State} (hpos : s.fg.pos = .loop) (hcalls : s.fg.calls = .send args :: cs) :
    fgStep p draw s = fgStep p draw ((s.setCalls cs).setFgPos (.proc (.send args (.preArmed 0)))) := by
  rw [fgStep_begin hpos hcalls, callBlock_none hnone, callEntry, requestUpdate_none hnone]
  rfl

/-- Settles O45: armed or not, the cursor 0 ends the wait at its first poll, and STMB follows. -/
theorem secondCommandOverwritesMailbox : Obligations.SecondCommandOverwritesMailbox := by
  intro p d1 d2 d3 args cs s hnone hpos hcalls hcursor
  have hbegin := fgStep_begin_send (draw := d1) hnone hpos hcalls
  cases harmed : s.block.armed with
  | false =>
    have hrun : runInputs p [.fg d1, .fg d2] s = .next _ :=
      run_fg (hbegin.trans (fgStep_preArmed_unarmed rfl harmed)) (run_fg (fgStep_place rfl) rfl)
    refine ⟨_, hrun, ?_, sameBytesBut_writeByte _ _ _, rfl⟩
    simp
  | true =>
    have hrun : runInputs p [.fg d1, .fg d2, .fg d3] s = .next _ :=
      run_fg (hbegin.trans (fgStep_preArmed_armed rfl harmed)) (run_fg (fgStep_preCursor_zero rfl hcursor)
        (run_fg (fgStep_place rfl) rfl))
    refine ⟨_, hrun, ?_, sameBytesBut_writeByte _ _ _, rfl⟩
    simp

/-- Settles O46: in each case the block's own rules, with CLRCUR between the bus event and the next. -/
theorem eventsBetweenStoreAndCursorReset : Obligations.EventsBetweenStoreAndCursorReset := by
  intro p d1 d2 args s hpos
  refine ⟨fun hcursor => ?_, fun hcursor harmed b => ?_, fun unarmed a b => ?_⟩
  · have hrun : runInputs p [.fg d1, .word 0x1100, .fg d2] s = .next _ :=
      run_fg (fgStep_place hpos) (run_req (run_fg (fgStep_clearCursor rfl) rfl))
    refine ⟨_, hrun, ?_, rfl, rfl⟩
    simp [hcursor]
  · have hrun : runInputs p [.fg d1, .word (encode (.rx b)), .fg d2] s = .next _ :=
      run_fg (fgStep_place hpos) (run_rx_armed harmed (run_fg (fgStep_clearCursor rfl) rfl))
    refine ⟨_, hrun, ?_, rfl⟩
    simp [hcursor]
  · have hrun : runInputs p [.fg d1, .word (encode (.rx a)), .fg d2, .word (encode (.rx b))] s = .next _ :=
      run_fg (fgStep_place hpos) (run_rx_unarmed unarmed (run_fg (fgStep_clearCursor rfl) (run_rx_armed rfl rfl)))
    refine ⟨_, hrun, ?_, rfl, fun x hx => ?_⟩
    · simp
    · exact (sameBytesBut_writeByte _ 0 b x hx).trans (sameBytesBut_writeByte s.block 0 args.byte x hx)

/-- The address decoder moves no byte to 0x00 (R100). -/
theorem addrDecodeWith_ne_zero {tag a : Byte} (ha : a ≠ 0) : addrDecodeWith tag Config.payloadBase a ≠ 0 := by
  unfold addrDecodeWith
  split
  · decide
  · exact ha

/-- Settles O47: the address phase moves the cursor off 0, which is what the poll looks at. -/
theorem statusWriteGivesFalseSuccess : Obligations.StatusWriteGivesFalseSuccess := by
  intro p draw args n a s hpos unarmed ha
  have hrun : runInputs p [.word (encode (.rx a)), .fg draw] s = .next _ :=
    run_rx_unarmed unarmed (run_fg (fgStep_poll_consumed hpos (addrDecodeWith_ne_zero ha)) rfl)
  cases hclr : args.clr with
  | true =>
    rw [sendFinish_clear hclr] at hrun
    exact ⟨_, hrun, fun _ => ⟨rfl, rfl⟩, nofun, rfl, rfl, fun _ => rfl⟩
  | false =>
    rw [sendFinish_keep hclr] at hrun
    exact ⟨_, hrun, nofun, fun _ => ⟨rfl, rfl⟩, rfl, rfl, fun _ => rfl⟩

/-- A run of REQ words is the requests one after the other, under all parameters. -/
theorem runInputs_requests {p : Params} {n : Nat} {s t : State} (h : execAll (List.replicate n .req) s = .next t) :
    runInputs p (List.replicate n (.word 0x1100)) s = .next t := by
  induction n generalizing s with
  | zero => exact h
  | succ n ih =>
    rw [List.replicate_succ, execAll_cons (exec_req s)] at h
    rw [List.replicate_succ]
    exact run_req (ih h)

/-- The host reads the mailbox, and the cursor is back at 0, with FG and the history untouched. -/
theorem consumption_back_at_zero {p : Params} {evs : List Input} {s : State} (htag : p.versionTag ≠ 0)
    (hcursor : s.block.cursor = 0)
    (hevs : evs = [.word 0x1100, .word 0x1200, .word 0x1000, .word 0x1200] ∨ evs = List.replicate 256 (.word 0x1100)) :
    ∃ u, runInputs p evs s = .next u ∧ u.block.cursor = 0 ∧ u.fg = s.fg ∧ u.events = s.events ∧
      ∃ more, u.driven = s.driven ++ s.block.readByte 0 :: more := by
  obtain rfl | rfl := hevs
  · have hpointer : (.word 0x1000 : Input) = .word (encode (.rx 0)) := by decide
    have hzero : addrDecodeWith p.versionTag Config.payloadBase 0 = 0 := if_neg htag.symm
    have hrun : runInputs p [.word 0x1100, .word 0x1200, .word (encode (.rx 0)), .word 0x1200] s = .next _ :=
      run_req (run_txEnd (run_rx_unarmed rfl (run_txEnd rfl)))
    rw [hpointer]
    refine ⟨_, hrun, hzero, by simp only [State.setBlock_fg, State.drive_fg], ?_, [], ?_⟩
    · simp only [State.setBlock_events, State.drive_events]
    · simp [hcursor]
  · obtain ⟨u, hu, hdriven, hend, -, -, hfg, hevents, -⟩ := requests_walk s 256
    rw [hcursor, List.range_succ_eq_map, List.map_cons] at hdriven
    refine ⟨u, runInputs_requests hu, ?_, hfg, hevents, _, hdriven⟩
    apply BitVec.eq_of_toNat_eq
    rw [hend, hcursor]
    rfl

/-- Settles O48: the poll reads the cursor 0. -/
theorem consumptionBackAtZeroIsNotSeen : Obligations.ConsumptionBackAtZeroIsNotSeen := by
  intro p draw args n evs s htag hpos _ hcursor hevs
  obtain ⟨u, hu, hback, hfg, hevents, more, hdriven⟩ := consumption_back_at_zero htag hcursor hevs
  have hposu : u.fg.pos = .proc (.send args (.poll n)) := by rw [hfg, hpos]
  have hrun : runInputs p (evs ++ [.fg draw]) s = .next _ :=
    run_append hu (run_fg (fgStep_poll_failing hposu hback) rfl)
  have hreturns : u.fg.returns = s.fg.returns := by rw [hfg]
  exact ⟨_, hrun, rfl, hreturns, hevents, hback, more, hdriven⟩

end Sys2Proof.Proofs

/-! PROOF. A command to a silent host (P5, R141): the two waits with no bus event and no early draw, each by induction
on the polls that are left. -/

namespace Sys2Proof.Proofs

open Sys2Proof.Machine Sys2Proof.Safety

/-- n FG steps with no early draw and nothing in between. -/
def quietSteps (n : Nat) : List Input := List.replicate n (.fg false)

theorem quietSteps_succ (n : Nat) : quietSteps (n + 1) = .fg false :: quietSteps n := rfl

theorem quietSteps_add (m n : Nat) : quietSteps (m + n) = quietSteps m ++ quietSteps n :=
  List.replicate_add m n _

/-- Step 1 on an open write at a cursor that is not 0: with d + 1 polls left it takes 3 * d + 2 FG steps to time out,
and proceeds to the placing of the command (R142). -/
theorem run_preWait_silent {p : Params} {args : SendArgs} {d n : Nat} {s : State} (hleft : p.maxPolls = n + d + 1)
    (haction : p.preWait = .proceed) (hpos : s.fg.pos = .proc (.send args (.preArmed n)))
    (harmed : s.block.armed = true) (hcursor : s.block.cursor ≠ 0) :
    runInputs p (quietSteps (3 * d + 2)) s =
      .next ((s.deliver s.block.cursor).setFgPos (.proc (.send args .place))) := by
  induction d generalizing n s with
  | zero =>
    have hends : p.maxPolls ≤ n + 1 ∨ false = true := .inl hleft.le
    have htimeout : preWaitTimeout p args = .line (.send args .place) := by rw [preWaitTimeout, haction]
    refine run_fg (fgStep_preArmed_armed hpos harmed) (run_fg (fgStep_preCursor_over rfl hcursor hends) ?_)
    rw [htimeout]
    rfl
  | succ d ih =>
    have hgoes : ¬ (p.maxPolls ≤ n + 1 ∨ false = true) := not_or_intro (by omega) nofun
    refine run_fg (fgStep_preArmed_armed hpos harmed) (run_fg (fgStep_preCursor_goesOn rfl hcursor hgoes)
      (run_fg (fgStep_preDelay rfl) ?_))
    exact ih (n := n + 1) (by omega) rfl harmed hcursor

/-- Step 4 with the cursor at 0: with d + 1 polls left it takes 2 * d + 1 FG steps to time out (R145). -/
theorem run_poll_silent {p : Params} {args : SendArgs} {d n : Nat} {s : State} (hleft : p.maxPolls = n + d + 1)
    (hpos : s.fg.pos = .proc (.send args (.poll n))) (hcursor : s.block.cursor = 0) :
    runInputs p (quietSteps (2 * d + 1)) s = .next ((s.deliver 0).setFgPos (.proc (.send args .report))) := by
  have hpoll := fgStep_poll_failing (p := p) (draw := false) hpos hcursor
  cases d with
  | zero =>
    rw [if_pos (.inl hleft.le)] at hpoll
    exact run_fg hpoll rfl
  | succ d =>
    have hgoes : ¬ (p.maxPolls ≤ n + 1 ∨ false = true) := not_or_intro (by omega) nofun
    rw [if_neg hgoes] at hpoll
    exact run_fg hpoll (run_fg (fgStep_pollDelay rfl) (run_poll_silent (n := n + 1) (by omega) rfl hcursor))

/-- How many FG steps step 1 takes where the host is silent: one on an unarmed block, two with the cursor at 0, and all
its polls otherwise. -/
def silentWait (p : Params) (k : Block) : Nat :=
  if k.armed = false then 1 else if k.cursor = 0 then 2 else 3 * p.maxPolls - 1

/-- Step 1 where the host is silent, from its first line to the placing of the command. -/
theorem run_step1_silent {p : Params} {args : SendArgs} {s : State} (hpolls : 0 < p.maxPolls)
    (hproceed : p.preWait = .proceed ∨ s.block.armed = false ∨ s.block.cursor = 0)
    (hpos : s.fg.pos = .proc (.send args (.preArmed 0))) :
    ∃ v, runInputs p (quietSteps (silentWait p s.block)) s =
      .next ((s.deliver v).setFgPos (.proc (.send args .place))) := by
  unfold silentWait
  cases harmed : s.block.armed with
  | false => exact ⟨_, run_fg (fgStep_preArmed_unarmed hpos harmed) rfl⟩
  | true =>
    by_cases hcursor : s.block.cursor = 0
    · rw [if_neg (by decide : ¬ true = false), if_pos hcursor]
      exact ⟨_, run_fg (fgStep_preArmed_armed hpos harmed) (run_fg (fgStep_preCursor_zero rfl hcursor) rfl)⟩
    · have haction : p.preWait = .proceed := (hproceed.resolve_right (not_or_intro (by simp [harmed]) hcursor))
      obtain ⟨d, hd⟩ : ∃ d, p.maxPolls = 0 + d + 1 := ⟨p.maxPolls - 1, by omega⟩
      rw [if_neg (by decide : ¬ true = false), if_neg hcursor, show 3 * p.maxPolls - 1 = 3 * d + 2 by omega]
      exact ⟨_, run_preWait_silent hd haction hpos harmed hcursor⟩

/-- From the placing of the command to the report of its timeout, with nothing in between. -/
theorem run_timeout_silent {p : Params} {args : SendArgs} {s : State} (hpolls : 0 < p.maxPolls)
    (hpos : s.fg.pos = .proc (.send args .place)) :
    runInputs p (quietSteps (2 * p.maxPolls + 2)) s =
      .next (((s.setBlock (announced s.block args.byte)).deliver 0).setFgPos (.proc (.send args .report))) := by
  obtain ⟨d, hd⟩ : ∃ d, p.maxPolls = 0 + d + 1 := ⟨p.maxPolls - 1, by omega⟩
  rw [show 2 * p.maxPolls + 2 = (2 * d + 1) + 3 by omega]
  exact run_announce hpos (run_poll_silent hd rfl rfl)

/-- A run of a call of send_command is the run from its first line. -/
theorem run_begin_send {p : Params} (hnone : NoUpdateEffect p) {args : SendArgs} {cs : List Call} {s : State}
    (hpos : s.fg.pos = .loop) (hcalls : s.fg.calls = .send args :: cs) (draw : Bool) (xs : List Input) :
    runInputs p (.fg draw :: xs) s =
      runInputs p (.fg draw :: xs) ((s.setCalls cs).setFgPos (.proc (.send args (.preArmed 0)))) := by
  simp only [runInputs, runInput, fgStep_begin_send hnone hpos hcalls]

/-- Step 1 where the host is silent, from the call to the placing of the command. -/
theorem run_call_silent {p : Params} (hnone : NoUpdateEffect p) {args : SendArgs} {cs : List Call} {s : State}
    (hpolls : 0 < p.maxPolls) (hproceed : p.preWait = .proceed ∨ s.block.armed = false ∨ s.block.cursor = 0)
    (hpos : s.fg.pos = .loop) (hcalls : s.fg.calls = .send args :: cs) :
    ∃ v, runInputs p (quietSteps (silentWait p s.block)) s =
      .next (((s.setCalls cs).deliver v).setFgPos (.proc (.send args .place))) := by
  have hpositive : 0 < silentWait p s.block := by
    unfold silentWait
    split_ifs <;> omega
  obtain ⟨k, hk⟩ : ∃ k, silentWait p s.block = k + 1 := ⟨_, (Nat.succ_pred_eq_of_pos hpositive).symm⟩
  have hwait := run_step1_silent (args := args) (s := (s.setCalls cs).setFgPos _) hpolls hproceed rfl
  rw [State.setFgPos_block, State.setCalls_block, hk, quietSteps_succ, ← run_begin_send hnone hpos hcalls] at hwait
  rw [hk]
  exact hwait

/-- The report and step 6: the flag, the event and the return, and the strobe lowered where clear_strobe_after asks for
it (R146, R147). -/
theorem run_report_silent {p : Params} {args : SendArgs} {s : State} (hpos : s.fg.pos = .proc (.send args .report)) :
    runInputs p (quietSteps (1 + if args.clr then 1 else 0)) s =
      .next (((s.setBlock ((s.block.setCmdError true).setStrobe (s.block.strobe && !args.clr))).raiseEvent
        .cmdTimeout).procReturn (.sent .failure)) := by
  have hreport := fgStep_report (p := p) (draw := false) hpos
  cases hclr : args.clr with
  | true =>
    rw [sendFinish_clear hclr] at hreport
    rw [Bool.not_true, Bool.and_false]
    exact run_fg hreport (run_fg (fgStep_lowerStrobe rfl) rfl)
  | false =>
    rw [sendFinish_keep hclr] at hreport
    rw [Bool.not_false, Bool.and_true]
    exact run_fg hreport rfl

/-- Settles O42: step 1, then steps 2 to 4 up to the timeout, then the report and step 6. -/
theorem silentHostTimesOut : Obligations.SilentHostTimesOut := by
  intro p args cs pre s hnone hpolls hpos hcalls hproceed hpre
  obtain ⟨v, hwait⟩ := run_call_silent hnone hpolls hproceed hpos hcalls
  have hlength : pre + 2 * p.maxPolls + 3 + (if args.clr then 1 else 0) =
      silentWait p s.block + ((2 * p.maxPolls + 2) + (1 + if args.clr then 1 else 0)) := by
    rw [hpre]
    unfold silentWait
    omega
  have hrun := run_append hwait (run_append (run_timeout_silent hpolls rfl) (run_report_silent rfl))
  rw [← quietSteps_add, ← quietSteps_add, ← hlength] at hrun
  refine ⟨_, hrun, rfl, rfl, rfl, rfl, rfl, ?_, rfl, ?_, rfl⟩
  · simp [announced]
  · simp [announced]

end Sys2Proof.Proofs

/-! PROOF. The procedures return (R110, R111, R150): a count of the FG steps a line may still need, which every line
lowers, whatever HOST and TIMER do in between. -/

namespace Sys2Proof.Proofs

open Sys2Proof.Machine Sys2Proof.Safety

/-- An operation other than RESET leaves FG's position, calls and returns. -/
theorem execWith_keeps_fg {p : Params} {i : Instr} {s t : State} (hi : i ≠ .reset) (h : execWith p i s = .next t) :
    t.fg.pos = s.fg.pos ∧ t.fg.calls = s.fg.calls ∧ t.fg.returns = s.fg.returns := by
  cases i with
  | reset => exact absurd rfl hi
  | _ =>
    cases h
    exact ⟨rfl, rfl, rfl⟩

/-- FG's move adds the return of the procedure, if it returns. -/
theorem goTo_returns (s : State) (n : ProcNext) : ∃ more, (s.goTo n).fg.returns = s.fg.returns ++ more := by
  cases n with
  | line q => exact ⟨[], (List.append_nil _).symm⟩
  | done r => exact ⟨[r], rfl⟩

/-- A line's primitive leaves FG's position, calls and returns. -/
theorem exec_procPrimitive_fg {q : ProcLine} {s t : State} (h : exec (procPrimitive q) s = .next t) :
    t.fg.pos = s.fg.pos ∧ t.fg.calls = s.fg.calls ∧ t.fg.returns = s.fg.returns :=
  execWith_keeps_fg (procPrimitive_ne q).2 ((execWith_specParams s _).trans h)

/-- An FG step keeps what the procedures have returned. -/
theorem fgStep_returns {p : Params} {draw : Bool} {s t : State} (h : fgStep p draw s = .next t) :
    ∃ more, t.fg.returns = s.fg.returns ++ more := by
  obtain ⟨b, -, hb⟩ | ⟨q, s0, hq, hstart⟩ | ⟨-, -, rfl⟩ := fgStep_inv h
  · obtain ⟨k, pos, rfl, -, -⟩ := bootStep_inv hb
    exact ⟨[], (List.append_nil _).symm⟩
  · obtain ⟨u, hu, rfl⟩ := procStep_inv hq
    have hs0 : s0.fg.returns = s.fg.returns := by
      obtain ⟨-, rfl⟩ | ⟨-, c, cs, -, -, rfl⟩ := hstart <;> rfl
    rw [← hs0, ← (exec_procPrimitive_fg hu).2.2]
    exact goTo_returns u _
  · exact ⟨[], (List.append_nil _).symm⟩

/-- A run without RESET goes through to its end, and keeps what the procedures have returned. -/
theorem runInputs_returns {p : Params} {l : List Input} (h : NoReset l) (s : State) :
    ∃ t more, runInputs p l s = .next t ∧ t.fg.returns = s.fg.returns ++ more := by
  induction l generalizing s with
  | nil => exact ⟨s, [], rfl, (List.append_nil _).symm⟩
  | cons x xs ih =>
    obtain ⟨hxs, hx⟩ := h.cons
    obtain ⟨u, more, hu, hreturns⟩ : ∃ u more, runInput p x s = .next u ∧ u.fg.returns = s.fg.returns ++ more := by
      cases x with
      | word w =>
        obtain ⟨i, hw, hi⟩ := hx w rfl
        obtain ⟨u, hu⟩ := execWith_next p i s
        exact ⟨u, [], (runInput_word hw s).trans hu, by rw [(execWith_keeps_fg hi hu).2.2, List.append_nil]⟩
      | fg draw =>
        obtain ⟨u, hu⟩ := fgStep_next p draw s
        obtain ⟨more, hreturns⟩ := fgStep_returns hu
        exact ⟨u, more, hu, hreturns⟩
      | timer => exact ⟨s, [], rfl, (List.append_nil _).symm⟩
    obtain ⟨t, more', ht, hreturns'⟩ := ih hxs u
    exact ⟨t, more ++ more', (runInputs_cons hu).trans ht, by rw [hreturns', hreturns, List.append_assoc]⟩

/-- A count of FG steps for the lines that an invariant holds of: every line lowers it, whatever its primitive delivers
and the draw says, and goes on inside the invariant or returns a result of a certain kind. -/
structure Countdown (p : Params) (cost : ProcLine → Nat) (Inv : ProcLine → Prop) (Result : ProcReturn → Prop) :
    Prop where
  positive : ∀ q, Inv q → 0 < cost q
  advance : ∀ draw v q, Inv q →
    (∃ q', procAdvance p draw v q = .line q' ∧ Inv q' ∧ cost q' < cost q) ∨
      ∃ r, procAdvance p draw v q = .done r ∧ Result r

/-- FG's step at a line, said by where the line leads. -/
theorem fgStep_leads {p : Params} {draw : Bool} {s : State} {q : ProcLine} (hpos : s.fg.pos = .proc q) :
    ∃ (u : State) (v : Byte),
      fgStep p draw s = .next (u.goTo (procAdvance p draw v q)) ∧ u.fg.returns = s.fg.returns := by
  obtain ⟨u, hu, -⟩ := exec_moves_block (procPrimitive q) s
  exact ⟨u, u.fg.result, fgStep_line hpos hu, (exec_procPrimitive_fg hu).2.2⟩

section countdown
variable {p : Params} {cost : ProcLine → Nat} {Inv : ProcLine → Prop} {Result : ProcReturn → Prop}

/-- A procedure in progress returns within the count of its line, whatever stands between the FG steps. -/
theorem Countdown.returns (hdown : Countdown p cost Inv Result) {l : List Input} (hl : NoReset l) {s : State}
    {q : ProcLine} (hpos : s.fg.pos = .proc q) (hq : Inv q) (hturns : cost q ≤ fgTurns l) :
    ∃ t r more, runInputs p l s = .next t ∧ Result r ∧ t.fg.returns = s.fg.returns ++ r :: more := by
  induction l generalizing s q with
  | nil =>
    have hpositive := hdown.positive q hq
    rw [fgTurns_nil] at hturns
    omega
  | cons x xs ih =>
    obtain ⟨hxs, hx⟩ := hl.cons
    cases x with
    | word w =>
      obtain ⟨i, hw, hi⟩ := hx w rfl
      obtain ⟨u, hu⟩ := execWith_next p i s
      obtain ⟨hupos, -, hureturns⟩ := execWith_keeps_fg hi hu
      obtain ⟨t, r, more, ht, hr, htreturns⟩ := ih hxs (hupos.trans hpos) hq hturns
      exact ⟨t, r, more, run_word hw hu ht, hr, by rw [htreturns, hureturns]⟩
    | timer => exact ih hxs hpos hq hturns
    | fg draw =>
      rw [fgTurns_fg] at hturns
      obtain ⟨u, v, hstep, hureturns⟩ := fgStep_leads (p := p) (draw := draw) hpos
      obtain ⟨q', hnext, hq', hcost⟩ | ⟨r, hnext, hr⟩ := hdown.advance draw v q hq
      · rw [hnext] at hstep
        obtain ⟨t, r, more, ht, hr, htreturns⟩ := ih (s := u.goTo (.line q')) hxs rfl hq' (by omega)
        exact ⟨t, r, more, run_fg hstep ht, hr, htreturns.trans (congrArg (· ++ _) hureturns)⟩
      · rw [hnext] at hstep
        obtain ⟨t, more, ht, htreturns⟩ := runInputs_returns (p := p) hxs (u.goTo (.done r))
        refine ⟨t, r, more, run_fg hstep ht, hr, ?_⟩
        rw [htreturns, State.goTo_done, State.procReturn_returns, hureturns, List.append_assoc]
        rfl

/-- A call returns within the count of its first line, whichever block it is made at. -/
theorem Countdown.call_returns (hdown : Countdown p cost Inv Result) {c : Call} {n : Nat}
    (hentry : ∀ k, Inv (callEntry p k c) ∧ cost (callEntry p k c) ≤ n) {l : List Input} (hl : NoReset l) {s : State}
    {cs : List Call} (hpos : s.fg.pos = .loop) (hcalls : s.fg.calls = c :: cs) (hturns : n ≤ fgTurns l) :
    ∃ t r more, runInputs p l s = .next t ∧ Result r ∧ t.fg.returns = s.fg.returns ++ r :: more := by
  induction l generalizing s with
  | nil =>
    obtain ⟨hinv, hcost⟩ := hentry s.block
    have hpositive := hdown.positive _ hinv
    rw [fgTurns_nil] at hturns
    omega
  | cons x xs ih =>
    obtain ⟨hxs, hx⟩ := hl.cons
    cases x with
    | word w =>
      obtain ⟨i, hw, hi⟩ := hx w rfl
      obtain ⟨u, hu⟩ := execWith_next p i s
      obtain ⟨hupos, hucalls, hureturns⟩ := execWith_keeps_fg hi hu
      obtain ⟨t, r, more, ht, hr, htreturns⟩ := ih hxs (hupos.trans hpos) (hucalls.trans hcalls) hturns
      exact ⟨t, r, more, run_word hw hu ht, hr, by rw [htreturns, hureturns]⟩
    | timer => exact ih hxs hpos hcalls hturns
    | fg draw =>
      obtain ⟨hinv, hcost⟩ := hentry s.block
      have hrun := hdown.returns hl (s := ((s.setCalls cs).setBlock (callBlock p s.block c)).setFgPos _) rfl hinv
        (hcost.trans hturns)
      rwa [runInputs, runInput, ← fgStep_begin hpos hcalls] at hrun

end countdown

/-- How many FG steps a line of send_command may still need: three for each poll left in step 1 and two for each left in
step 4, and one for each line besides (R150). -/
def sendCost (p : Params) : SendLine → Nat
  | .preArmed n => 3 * (p.maxPolls - n) + 2 * p.maxPolls + 3
  | .preCursor n => 3 * (p.maxPolls - n) + 2 * p.maxPolls + 2
  | .preDelay n => 3 * (p.maxPolls - n) + 2 * p.maxPolls + 4
  | .place => 2 * p.maxPolls + 4
  | .clearCursor => 2 * p.maxPolls + 3
  | .raiseStrobe => 2 * p.maxPolls + 2
  | .poll n => 2 * (p.maxPolls - n) + 1
  | .pollDelay n => 2 * (p.maxPolls - n) + 2
  | .report => 2
  | .lowerStrobe _ => 1

/-- Each line of send_command lowers the count of the next. -/
theorem SendMove.cost_lt {p : Params} {l l' : SendLine} (m : SendMove p l l') (h : SendCountersBounded p l) :
    sendCost p l' < sendCost p l := by
  cases m with
  | unarmed n | preWaitOver n | preWaitGoesOn n | consumed n | timedOut n | waitGoesOn n =>
    have hleft : n < p.maxPolls := h
    simp only [sendCost]
    omega
  | _ =>
    simp only [sendCost]
    omega

/-- A line of send_command whose counter is bounded. -/
def InSend (p : Params) (q : ProcLine) : Prop := ∃ args l, q = .send args l ∧ SendCountersBounded p l

/-- send_command counts down from 5 * MAX_POLLS + 3. -/
theorem countdown_send {p : Params} (hpolls : 0 < p.maxPolls) :
    Countdown p (fun | .send _ l => sendCost p l | .snap _ _ => 0) (InSend p) (∃ r, · = .sent r) where
  positive := by
    rintro _ ⟨args, l, rfl, -⟩
    cases l <;> exact Nat.succ_pos _
  advance := by
    rintro draw v _ ⟨args, l, rfl, hl⟩
    refine (sendAdvance_move p draw args v l).imp ?_ ?_
    · rintro ⟨l', hnext, m⟩
      exact ⟨_, hnext, ⟨args, l', rfl, m.keeps_bounded hpolls hl⟩, m.cost_lt hl⟩
    · rintro ⟨r, hnext⟩
      exact ⟨_, hnext, r, rfl⟩

/-- Settles O41: a call of send_command begins with no poll counted. -/
theorem sendCommandTerminates : Obligations.SendCommandTerminates := by
  intro p args cs l s hpolls hpos hcalls hl hturns
  have hentry (k : Block) : InSend p (callEntry p k (.send args)) ∧ 3 * (p.maxPolls - 0) + 2 * p.maxPolls + 3 ≤
      5 * p.maxPolls + 3 := ⟨⟨_, _, rfl, hpolls⟩, by omega⟩
  obtain ⟨t, _, more, ht, ⟨r, rfl⟩, hreturns⟩ := (countdown_send hpolls).call_returns hentry hl hpos hcalls hturns
  exact ⟨t, r, more, ht, hreturns⟩

end Sys2Proof.Proofs

/-! PROOF. The lines of snapshot_read and read_packet (R110, R111), the message that a msg_ctl announces, and that both
reads return. -/

namespace Sys2Proof.Proofs

open Sys2Proof.Machine Sys2Proof.Safety

/-- A msg_ctl announces its own number of bytes up to 127, and none above (R119). -/
theorem messageLength_eq (c : Nat) : messageLength c = if c ≤ 127 then c else 0 := by
  by_cases hzero : c = 0
  · rw [hzero]
    rfl
  · by_cases hlength : c ≤ 127
    · simp only [messageLength, classifyMsgCtl, if_neg hzero, if_pos hlength]
    · simp only [messageLength, classifyMsgCtl, if_neg hzero, if_neg hlength]
      split_ifs <;> rfl

/-- The bytes of a field of one byte, in either order. -/
theorem fieldRaw_of_width_one {lay : PacketLayout} {f : PacketField} (hf : f.width = 1) (order : FieldByteOrder)
    (v : List Byte) : fieldRaw lay order v f = (snapByte lay v f.addr).toNat := by
  cases order <;> simp [fieldRaw, hf, assembleBytes]

/-- In the reference layout msg_ctl is the 28th byte of the read (R114). -/
theorem fieldRaw_msgCtl (order : FieldByteOrder) (v : List Byte) :
    fieldRaw Config.packetLayout order v Config.packetLayout.msgCtl = (v.getD 27 0).toNat := by
  rw [fieldRaw_of_width_one rfl, snapByte, packetBase_reference]
  rfl

/-- In the reference layout the message follows the 28th byte, where that announces one (R110). -/
theorem snapExtra_packet {p : Params} (hlay : p.packetLayout = Config.packetLayout) (got : List Byte) (b : Byte) :
    snapExtra p .packet (got ++ [b]) = if got.length = 27 ∧ b.toNat ≤ 127 then b.toNat else 0 := by
  have hlength : (got ++ [b]).length = 28 ↔ got.length = 27 := by simp
  simp only [snapExtra, hlay, packetFixedLength_reference, fieldRaw_msgCtl, messageLength_eq, hlength]
  by_cases hgot : got.length = 27
  · have hlast : (got ++ [b]).getD 27 0 = b := by simp [List.getD, hgot]
    rw [if_pos hgot, hlast]
    simp [hgot]
  · simp [hgot]

section lines
variable {p : Params} {draw : Bool} {kind : SnapKind} {s : State}

theorem fgStep_firstCheck_armed {lo : Byte} {n : Nat} (hpos : s.fg.pos = .proc (.snap kind (.firstCheck lo n)))
    (h : s.block.armed = true) :
    fgStep p draw s = .next ((s.deliver 1).procReturn (.snapshot kind none)) := by
  rw [fgStep_line hpos (exec_ldarm s), h]
  rfl

theorem fgStep_firstCheck_unarmed {lo : Byte} {n : Nat} (hpos : s.fg.pos = .proc (.snap kind (.firstCheck lo n)))
    (h : s.block.armed = false) :
    fgStep p draw s = .next ((s.deliver 0).setFgPos (.proc (.snap kind (snapReadFrom lo n [])))) := by
  rw [fgStep_line hpos (exec_ldarm s), h]
  rfl

/-- A byte with more to read after it. -/
theorem fgStep_readByte_more {a : Byte} {n : Nat} {got : List Byte}
    (hpos : s.fg.pos = .proc (.snap kind (.readByte a (n + 2) got))) :
    fgStep p draw s = .next ((s.deliver (s.block.readByte a)).setFgPos
      (.proc (.snap kind (.readByte (nextAddr a) (n + 1) (got ++ [s.block.readByte a]))))) := by
  rw [fgStep_line hpos (exec_ldb s a), procAdvance, snapAdvance, if_pos (by omega)]
  rfl

/-- The last byte, after which the message or the second check follows. -/
theorem fgStep_readByte_last {a : Byte} {got : List Byte} (hpos : s.fg.pos = .proc (.snap kind (.readByte a 1 got))) :
    fgStep p draw s = .next ((s.deliver (s.block.readByte a)).setFgPos
      (.proc (.snap kind (snapReadFrom (BitVec.ofNat 8 p.packetLayout.message)
        (snapExtra p kind (got ++ [s.block.readByte a])) (got ++ [s.block.readByte a]))))) := by
  rw [fgStep_line hpos (exec_ldb s a), procAdvance, snapAdvance, if_neg (by omega)]
  rfl

theorem fgStep_lastCheck {got : List Byte} (hpos : s.fg.pos = .proc (.snap kind (.lastCheck got))) :
    fgStep p draw s = .next ((s.deliver (flagByte s.block.armed)).procReturn
      (.snapshot kind (if s.block.armed = true then none else some got))) := by
  rw [fgStep_line hpos (exec_ldarm s)]
  cases s.block.armed <;> rfl

theorem fgStep_lastCheck_unarmed {got : List Byte} (hpos : s.fg.pos = .proc (.snap kind (.lastCheck got)))
    (h : s.block.armed = false) :
    fgStep p draw s = .next ((s.deliver 0).procReturn (.snapshot kind (some got))) := by
  rw [fgStep_lastCheck hpos, h]
  rfl

end lines

/-- Settles O52: the rules of the lines, and what a msg_ctl announces. -/
theorem snapshotLinesReadTheirInstant : Obligations.SnapshotLinesReadTheirInstant := by
  intro p draw kind a n got s
  refine ⟨fun hpos => ?_, fun hpos => ?_, fun len hlay hlen hpos => ?_, fun hpos => ?_⟩
  · cases harmed : s.block.armed with
    | true => exact ⟨_, fgStep_firstCheck_armed hpos harmed, sameBlock_refl _, rfl, rfl⟩
    | false => exact ⟨_, fgStep_firstCheck_unarmed hpos harmed, sameBlock_refl _, rfl, rfl⟩
  · cases n with
    | zero => exact ⟨_, fgStep_readByte_last hpos, sameBlock_refl _, rfl, rfl⟩
    | succ n => exact ⟨_, fgStep_readByte_more hpos, sameBlock_refl _, rfl, rfl⟩
  · cases n with
    | zero =>
      refine ⟨_, fgStep_readByte_last hpos, sameBlock_refl _, rfl, ?_⟩
      rw [snapExtra_packet hlay, ← hlen, hlay]
      cases len <;> rfl
    | succ n => exact ⟨_, fgStep_readByte_more hpos, sameBlock_refl _, rfl, rfl⟩
  · exact ⟨_, fgStep_lastCheck hpos, sameBlock_refl _, rfl, rfl⟩

/-- Settles O50: the first check returns SKIP, and a SKIP gives the consumers nothing. -/
theorem snapshotOfArmedBlockSkips : Obligations.SnapshotOfArmedBlockSkips := by
  intro p draw c cs kind s hpos hcalls harmed hkind
  have hbegin := fgStep_begin (p := p) (draw := draw) hpos hcalls
  obtain ⟨rfl, lo, n, rfl⟩ | ⟨rfl, rfl⟩ := hkind
  · exact ⟨_, hbegin.trans (fgStep_firstCheck_armed rfl harmed), rfl, rfl, sameBlock_refl _, rfl, rfl⟩
  · exact ⟨_, hbegin.trans (fgStep_firstCheck_armed rfl harmed), rfl, rfl, sameBlock_refl _, rfl, rfl⟩

/-- The most message bytes that can follow the bytes read so far. -/
def messageAhead : SnapKind → List Byte → Nat
  | .region, _ => 0
  | .packet, got => if got.length < 28 then 127 else 0

/-- How many FG steps a line of a snapshot may still need: one for each byte left, the message if it is still ahead, and
the checks (R110). -/
def snapCost (kind : SnapKind) : SnapLine → Nat
  | .firstCheck _ n => n + 2 + messageAhead kind []
  | .readByte _ left got => left + 1 + messageAhead kind got
  | .lastCheck _ => 1

/-- A line of a snapshot that has a byte to read where it reads one; and of a packet read only the fixed part of 28
bytes is followed by a message. -/
def SnapLineOk (kind : SnapKind) : SnapLine → Prop
  | .firstCheck _ n => kind = .packet → n = 28
  | .readByte _ left got => 0 < left ∧ (kind = .packet → got.length < 28 → got.length + left = 28)
  | .lastCheck _ => True

/-- The bytes still to read after a line: they are the fixed part's, or there is no fixed part left. -/
theorem snapReadFrom_ok {kind : SnapKind} {a : Byte} {n : Nat} {got : List Byte}
    (h : kind = .packet → got.length < 28 → got.length + n = 28) :
    SnapLineOk kind (snapReadFrom a n got) ∧ snapCost kind (snapReadFrom a n got) ≤ n + 1 + messageAhead kind got := by
  cases n with
  | zero => exact ⟨trivial, by simp only [snapReadFrom, snapCost]; omega⟩
  | succ n => exact ⟨⟨Nat.succ_pos n, h⟩, le_refl _⟩

/-- Reading a byte brings no message nearer than it was, and the message that follows the last byte was still ahead. -/
theorem messageAhead_read {p : Params} {kind : SnapKind} (hlay : kind = .packet → p.packetLayout = Config.packetLayout)
    (got : List Byte) (v : Byte) :
    messageAhead kind (got ++ [v]) ≤ messageAhead kind got ∧
      ((kind = .packet → got.length < 28 → got.length + 1 = 28) →
        snapExtra p kind (got ++ [v]) + messageAhead kind (got ++ [v]) ≤ messageAhead kind got) := by
  cases kind with
  | region => exact ⟨le_refl _, fun _ => le_refl _⟩
  | packet =>
    rw [snapExtra_packet (hlay rfl)]
    simp only [messageAhead, List.length_append, List.length_singleton, forall_const]
    constructor
    · split_ifs <;> omega
    · intro hlast
      split_ifs <;> omega

/-- Each line of a snapshot lowers the count of the next, or returns. -/
theorem snapAdvance_counts {p : Params} {kind : SnapKind} (hlay : kind = .packet → p.packetLayout = Config.packetLayout)
    (v : Byte) {l : SnapLine} (hl : SnapLineOk kind l) :
    (∃ l', snapAdvance p kind v l = .line (.snap kind l') ∧ SnapLineOk kind l' ∧ snapCost kind l' < snapCost kind l) ∨
      ∃ r, snapAdvance p kind v l = .done (.snapshot kind r) := by
  cases l with
  | firstCheck lo n =>
    obtain ⟨hok, hcost⟩ := snapReadFrom_ok (kind := kind) (a := lo) (n := n) (got := [])
      fun hkind _ => (Nat.zero_add n).trans (hl hkind)
    rw [snapAdvance]
    split_ifs
    · exact .inr ⟨_, rfl⟩
    · exact .inl ⟨_, rfl, hok, lt_of_le_of_lt hcost (by simp only [snapCost]; omega)⟩
  | readByte a left got =>
    obtain ⟨hleft, hfixed⟩ := hl
    obtain ⟨hnearer, hmessage⟩ := messageAhead_read hlay got v
    have hlength : (got ++ [v]).length = got.length + 1 := List.length_append
    rw [snapAdvance]
    split_ifs with hmore
    · obtain ⟨hok, hcost⟩ := snapReadFrom_ok (kind := kind) (a := nextAddr a) (n := left - 1) (got := got ++ [v])
        fun hkind hshort => by have := hfixed hkind; omega
      exact .inl ⟨_, rfl, hok, lt_of_le_of_lt hcost (by simp only [snapCost]; omega)⟩
    · have hlast : left = 1 := by omega
      subst hlast
      obtain ⟨hok, hcost⟩ := snapReadFrom_ok (kind := kind) (a := BitVec.ofNat 8 p.packetLayout.message)
        (n := snapExtra p kind (got ++ [v])) (got := got ++ [v]) fun hkind hshort => by have := hfixed hkind; omega
      have hahead := hmessage hfixed
      exact .inl ⟨_, rfl, hok, lt_of_le_of_lt hcost (by simp only [snapCost]; omega)⟩
  | lastCheck got => exact .inr ⟨_, rfl⟩

/-- A snapshot counts down from n + 2, and a packet read in the reference layout from 28 + 127 + 2. -/
theorem countdown_snap {p : Params} {kind : SnapKind} (hlay : kind = .packet → p.packetLayout = Config.packetLayout) :
    Countdown p (fun | .snap kind l => snapCost kind l | .send _ _ => 0) (∃ l, · = .snap kind l ∧ SnapLineOk kind l)
      (∃ r, · = .snapshot kind r) where
  positive := by
    rintro _ ⟨l, rfl, -⟩
    cases l with
    | firstCheck lo n => exact Nat.add_pos_left (Nat.succ_pos _) _
    | readByte a left got => exact Nat.add_pos_left (Nat.succ_pos _) _
    | lastCheck got => exact Nat.one_pos
  advance := by
    rintro draw v _ ⟨l, rfl, hl⟩
    refine (snapAdvance_counts hlay v hl).imp ?_ ?_
    · rintro ⟨l', hnext, hl', hcost⟩
      exact ⟨_, hnext, ⟨l', rfl, hl'⟩, hcost⟩
    · rintro ⟨r, hnext⟩
      exact ⟨_, hnext, r, rfl⟩

/-- Settles O51: both reads begin at their first check, with the count of the whole read. -/
theorem snapshotNeverBlocks : Obligations.SnapshotNeverBlocks := by
  constructor
  · intro p lo n cs l s hpos hcalls hl hturns
    have hdown := countdown_snap (p := p) (kind := .region) nofun
    obtain ⟨t, _, more, ht, ⟨v, rfl⟩, hreturns⟩ :=
      hdown.call_returns (fun k => ⟨⟨.firstCheck lo n, rfl, nofun⟩, le_refl (n + 2)⟩) hl hpos hcalls hturns
    exact ⟨t, v, more, ht, hreturns⟩
  · intro p cs l s hlay hpos hcalls hl hturns
    have hdown := countdown_snap (p := p) (kind := .packet) fun _ => hlay
    have hfixed : packetFixedLength p.packetLayout = 28 := by rw [hlay, packetFixedLength_reference]
    have hcost : packetFixedLength p.packetLayout + 2 + 127 ≤ 28 + 127 + 2 := by rw [hfixed]
    obtain ⟨t, _, more, ht, ⟨v, rfl⟩, hreturns⟩ :=
      hdown.call_returns (fun k => ⟨⟨.firstCheck _ _, rfl, fun _ => hfixed⟩, hcost⟩) hl hpos hcalls hturns
    exact ⟨t, v, more, ht, hreturns⟩

end Sys2Proof.Proofs

/-! PROOF. Undisturbed snapshots (R110): the bytes read, as the multi-byte read of R10. -/

namespace Sys2Proof.Proofs

open Sys2Proof.Machine Sys2Proof.Safety

/-- The bytes of a multi-byte read, each by its address (R10). -/
theorem memRead_eq (k : Block) (a : Byte) (n : Nat) :
    k.memRead a n = (List.range n).map (fun j => k.readByte (BitVec.ofNat 8 (a.toNat + j))) := by
  induction n generalizing a with
  | zero => rfl
  | succ n ih =>
    rw [Block.memRead, ih, List.range_succ_eq_map, List.map_cons, List.map_map]
    simp only [ofNat_nextAddr_add, Nat.add_zero, BitVec.ofNat_toNat, BitVec.setWidth_eq]
    rfl

/-- A multi-byte read in two parts. -/
theorem memRead_add (k : Block) (a : Byte) (m n : Nat) :
    k.memRead a (m + n) = k.memRead a m ++ k.memRead (BitVec.ofNat 8 (a.toNat + m)) n := by
  induction m generalizing a with
  | zero => simp [Block.memRead]
  | succ m ih =>
    rw [Nat.succ_add, Block.memRead, ih, ofNat_nextAddr_add, Block.memRead, List.cons_append]

/-- The bytes from a on, read with nothing in between: the whole run of the line that reads them, up to the message or
the second check. -/
theorem run_readBytes {p : Params} {kind : SnapKind} {a : Byte} {n : Nat} {got full : List Byte} {ds : List Bool}
    {s : State} (hpos : s.fg.pos = .proc (.snap kind (.readByte a (n + 1) got))) (hds : ds.length = n + 1)
    (hfull : full = got ++ s.block.memRead a (n + 1)) :
    ∃ v, runInputs p (ds.map .fg) s = .next ((s.deliver v).setFgPos (.proc (.snap kind
      (snapReadFrom (BitVec.ofNat 8 p.packetLayout.message) (snapExtra p kind full) full)))) := by
  induction n generalizing a got ds s with
  | zero =>
    obtain ⟨d, rfl⟩ := List.length_eq_one_iff.1 hds
    subst hfull
    exact ⟨_, run_fg (fgStep_readByte_last hpos) rfl⟩
  | succ n ih =>
    obtain ⟨d, ds, rfl⟩ := List.exists_cons_of_length_eq_add_one hds
    have hrest : full = got ++ [s.block.readByte a] ++ s.block.memRead (nextAddr a) (n + 1) := by
      rw [hfull, Block.memRead, List.append_assoc]
      rfl
    obtain ⟨v, hv⟩ := ih (s := (s.deliver (s.block.readByte a)).setFgPos _) rfl (Nat.succ.inj hds) hrest
    exact ⟨v, run_fg (fgStep_readByte_more hpos) hv⟩

/-- The same from the line before the bytes, where there may be none to read: then the second check is next. -/
theorem run_readFrom {p : Params} {kind : SnapKind} {a : Byte} {n : Nat} {got : List Byte} {ds : List Bool}
    {s : State} (hpos : s.fg.pos = .proc (.snap kind (snapReadFrom a n got))) (hds : ds.length = n)
    (hlast : snapExtra p kind (got ++ s.block.memRead a n) = 0) :
    ∃ v, runInputs p (ds.map .fg) s =
      .next ((s.deliver v).setFgPos (.proc (.snap kind (.lastCheck (got ++ s.block.memRead a n))))) := by
  cases n with
  | zero =>
    obtain rfl := List.eq_nil_of_length_eq_zero hds
    refine ⟨s.fg.result, ?_⟩
    rw [Block.memRead, List.append_nil]
    rw [snapReadFrom] at hpos
    rw [← hpos]
    rfl
  | succ n =>
    have hrun := run_readBytes (p := p) hpos hds rfl
    rwa [hlast] at hrun

/-- A list in two parts of given lengths. -/
theorem exists_append_of_length {l : List Bool} {m n : Nat} (h : l.length = m + n) :
    ∃ xs ys, l = xs ++ ys ∧ xs.length = m ∧ ys.length = n :=
  ⟨l.take m, l.drop m, (List.take_append_drop m l).symm, by simp [h], by simp [h]⟩

/-- The first step of a snapshot or packet read called while armed = 0: the first check (R110). -/
theorem fgStep_call_unarmed {p : Params} {draw : Bool} {c : Call} {cs : List Call} {kind : SnapKind} {lo : Byte}
    {n : Nat} {s : State} (hpos : s.fg.pos = .loop) (hcalls : s.fg.calls = c :: cs) (unarmed : s.block.armed = false)
    (hentry : callEntry p s.block c = .snap kind (.firstCheck lo n)) (hblock : callBlock p s.block c = s.block) :
    fgStep p draw s = .next (((s.setCalls cs).deliver 0).setFgPos (.proc (.snap kind (snapReadFrom lo n [])))) := by
  rw [fgStep_begin hpos hcalls, hentry, hblock]
  exact fgStep_firstCheck_unarmed rfl unarmed

/-- Settles O49: the first check, the n bytes, and the second check, all with armed = 0. -/
theorem quietSnapshotReturnsTheRegion : Obligations.QuietSnapshotReturnsTheRegion := by
  intro p lo n cs ds s hpos hcalls unarmed hds
  obtain ⟨d, ds, rfl⟩ := List.exists_cons_of_length_eq_add_one hds
  obtain ⟨reads, last, rfl, hreads, hlast⟩ := exists_append_of_length (Nat.succ.inj hds)
  obtain ⟨d', rfl⟩ := List.length_eq_one_iff.1 hlast
  have hfirst := fgStep_call_unarmed (p := p) (draw := d) hpos hcalls unarmed rfl rfl
  obtain ⟨v, hread⟩ := run_readFrom (p := p) (s := ((s.setCalls cs).deliver 0).setFgPos
    (.proc (.snap .region (snapReadFrom lo n [])))) rfl hreads rfl
  rw [List.map_cons, List.map_append, ← memRead_eq]
  have hrun := run_fg hfirst (run_append hread
    (run_fg (draw := d') (xs := []) (fgStep_lastCheck_unarmed rfl unarmed) rfl))
  exact ⟨_, hrun, rfl, rfl, sameBlock_refl _, rfl⟩

/-- After n + 1 bytes from 0x01 on in the reference layout: the message that msg_ctl announces, if msg_ctl, the 28th
byte, is the last of them. -/
theorem snapExtra_memRead {p : Params} (hlay : p.packetLayout = Config.packetLayout) (k : Block) (n : Nat) :
    snapExtra p .packet (k.memRead 1 (n + 1)) =
      if n = 27 ∧ (k.readByte (BitVec.ofNat 8 (1 + n))).toNat ≤ 127 then (k.readByte (BitVec.ofNat 8 (1 + n))).toNat
        else 0 := by
  rw [memRead_add, Block.memRead, Block.memRead, snapExtra_packet hlay, Block.length_memRead]
  rfl

/-- The bytes of a packet read with nothing in between: the fixed part ends with msg_ctl, and the message it announces
goes on at the next address. -/
theorem run_packetBytes {p : Params} (hlay : p.packetLayout = Config.packetLayout) {s : State} {len : Nat}
    {fixed message : List Bool} (hpos : s.fg.pos = .proc (.snap .packet (.readByte 1 28 [])))
    (hlen : len = if (s.block.readByte 0x1C).toNat ≤ 127 then (s.block.readByte 0x1C).toNat else 0)
    (hfixed : fixed.length = 28) (hmessage : message.length = len) :
    ∃ v, runInputs p (fixed.map .fg ++ message.map .fg) s =
      .next ((s.deliver v).setFgPos (.proc (.snap .packet (.lastCheck (s.block.memRead 1 (28 + len)))))) := by
  have hextra : snapExtra p .packet (s.block.memRead 1 28) = len := by
    rw [snapExtra_memRead hlay, hlen]
    simp only [true_and]
    rfl
  have hwhole : s.block.memRead 1 28 ++ s.block.memRead (BitVec.ofNat 8 p.packetLayout.message) len =
      s.block.memRead 1 (28 + len) := by
    rw [memRead_add, hlay]
    rfl
  have hnone : snapExtra p .packet (s.block.memRead 1 (28 + len)) = 0 := by
    cases len with
    | zero => exact hextra
    | succ m => rw [← Nat.add_assoc, snapExtra_memRead hlay, if_neg (by omega)]
  obtain ⟨v, hread⟩ := run_readBytes (p := p) (full := s.block.memRead 1 28) hpos hfixed rfl
  rw [hextra] at hread
  obtain ⟨v', hrest⟩ := run_readFrom (p := p) (s := (s.deliver v).setFgPos (.proc (.snap .packet (snapReadFrom
    (BitVec.ofNat 8 p.packetLayout.message) len (s.block.memRead 1 28))))) rfl hmessage
    ((congrArg _ hwhole).trans hnone)
  refine ⟨v', run_append hread ?_⟩
  rw [← hwhole]
  exact hrest

/-- Settles O53: the first check, the 28 bytes of the fixed part, the message, and the second check. -/
theorem quietPacketReadFollowsMsgCtl : Obligations.QuietPacketReadFollowsMsgCtl := by
  intro p cs len ds s hlay hpos hcalls unarmed hlen hds
  have hentry : callEntry p s.block .readPacket = .snap .packet (.firstCheck 1 28) := by
    rw [callEntry, hlay, packetBase_reference, packetFixedLength_reference]
    rfl
  obtain ⟨d, ds, rfl⟩ := List.exists_cons_of_length_eq_add_one hds
  obtain ⟨fixed, ds, rfl, hfixed, hds⟩ := exists_append_of_length (m := 28) (n := len + 1)
    ((Nat.succ.inj hds).trans (by omega))
  obtain ⟨message, last, rfl, hmessage, hlast⟩ := exists_append_of_length hds
  obtain ⟨d', rfl⟩ := List.length_eq_one_iff.1 hlast
  have hfirst := fgStep_call_unarmed (p := p) (draw := d) hpos hcalls unarmed hentry rfl
  obtain ⟨v, hread⟩ := run_packetBytes hlay (s := ((s.setCalls cs).deliver 0).setFgPos
    (.proc (.snap .packet (.readByte 1 28 [])))) rfl hlen hfixed hmessage
  have hrun := run_fg hfirst (run_append hread
    (run_fg (draw := d') (xs := []) (fgStep_lastCheck_unarmed rfl unarmed) rfl))
  rw [List.map_cons, List.map_append, List.map_append, ← List.append_assoc, Nat.add_comm len]
  refine ⟨_, hrun, ?_, rfl, sameBlock_refl _⟩
  exact congrArg (fun bytes => s.fg.returns ++ [.snapshot .packet (some bytes)]) (memRead_eq s.block 1 (28 + len))

end Sys2Proof.Proofs

/-! PROOF. The packet view (R114 to R120): the bytes of each field, the fourth axis, msg_ctl and the host-connection
predicate. -/

namespace Sys2Proof.Proofs

open Sys2Proof.Machine Sys2Proof.Safety

/-- A byte of the fixed part of the reference layout, which begins at 0x01. -/
theorem snapByte_reference (v : List Byte) (a : Nat) : snapByte Config.packetLayout v a = v.getD (a - 1) 0 := by
  rw [snapByte, packetBase_reference]

/-- The bytes of a field of four bytes, least significant first (R115). -/
theorem fieldRaw_of_width_four {lay : PacketLayout} {f : PacketField} (hf : f.width = 4) (v : List Byte) :
    fieldRaw lay .little v f = (snapByte lay v f.addr).toNat + 256 * (snapByte lay v (f.addr + 1)).toNat +
      65536 * (snapByte lay v (f.addr + 2)).toNat + 16777216 * (snapByte lay v (f.addr + 3)).toNat := by
  have hrange : List.range 4 = [0, 1, 2, 3] := rfl
  simp only [fieldRaw, hf, hrange, List.map_cons, List.map_nil, assembleBytes, Nat.add_zero]
  omega

/-- A list with the fixed part is a packet (R114, log 15). -/
theorem decodePacket_of_length {v : List Byte} (h : 28 ≤ v.length) :
    ∃ pk, decodePacket Config.packetLayout Config.fieldByteOrder v = some pk ∧
      pk = { systemState := fieldValue Config.packetLayout .little v ⟨0x01, 1, .unsigned⟩
             statusCode := fieldValue Config.packetLayout .little v ⟨0x02, 1, .unsigned⟩
             alarmSubstate := fieldValue Config.packetLayout .little v ⟨0x03, 1, .unsigned⟩
             feedOverride := fieldValue Config.packetLayout .little v ⟨0x04, 1, .unsigned⟩
             spindleOverride := fieldValue Config.packetLayout .little v ⟨0x05, 1, .unsigned⟩
             spindleRpm := fieldValue Config.packetLayout .little v ⟨0x06, 4, .signed⟩
             coordX := fieldValue Config.packetLayout .little v ⟨0x0A, 4, .binary32⟩
             coordY := fieldValue Config.packetLayout .little v ⟨0x0E, 4, .binary32⟩
             coordZ := fieldValue Config.packetLayout .little v ⟨0x12, 4, .binary32⟩
             coordA := axisOf (fieldValue Config.packetLayout .little v ⟨0x16, 4, .binary32⟩)
             jogMode := fieldValue Config.packetLayout .little v ⟨0x1A, 1, .unsigned⟩
             currentWcs := fieldValue Config.packetLayout .little v ⟨0x1B, 1, .unsigned⟩
             msgCtl := classifyMsgCtl (v.getD 27 0).toNat
             message := if (v.getD 27 0).toNat ≤ 127 then (v.drop 28).take (v.getD 27 0).toNat else [] } := by
  have hfixed : ¬ v.length < packetFixedLength Config.packetLayout := by
    rw [packetFixedLength_reference]
    omega
  refine ⟨_, if_neg hfixed, ?_⟩
  have hmessage (c : Nat) : (v.drop 28).take (messageLength c) = if c ≤ 127 then (v.drop 28).take c else [] := by
    rw [messageLength_eq]
    split_ifs
    · rfl
    · exact List.take_zero
  rw [fieldRaw_msgCtl, packetFixedLength_reference, hmessage]
  rfl

section fields
variable {v : List Byte} {b : Nat → Byte}

/-- The byte of a region address in a list whose first 28 bytes are those from 0x01 on. -/
theorem snapByte_eq (hv : ∀ k, k < 28 → v[k]? = some (b (k + 1))) {a : Nat} (hlow : 1 ≤ a) (hhigh : a ≤ 28) :
    snapByte Config.packetLayout v a = b a := by
  rw [snapByte_reference, List.getD_eq_getElem?_getD, hv (a - 1) (by omega), Nat.sub_add_cancel hlow]
  rfl

/-- A field of one byte without sign. -/
theorem fieldValue_byte (hv : ∀ k, k < 28 → v[k]? = some (b (k + 1))) {a : Nat} (hlow : 1 ≤ a) (hhigh : a ≤ 28) :
    fieldValue Config.packetLayout .little v ⟨a, 1, .unsigned⟩ = byteField (b a) := by
  rw [fieldValue, fieldRaw_of_width_one rfl, snapByte_eq hv hlow hhigh]
  rfl

/-- The raw number of a field of four bytes. -/
theorem fieldRaw_four (hv : ∀ k, k < 28 → v[k]? = some (b (k + 1))) {raw : Nat → Nat}
    (hraw : ∀ a, raw a = (b a).toNat + 256 * (b (a + 1)).toNat + 65536 * (b (a + 2)).toNat +
      16777216 * (b (a + 3)).toNat) {a : Nat} (type : FieldType) (hlow : 1 ≤ a) (hhigh : a + 3 ≤ 28) :
    fieldRaw Config.packetLayout .little v ⟨a, 4, type⟩ = raw a := by
  rw [fieldRaw_of_width_four rfl]
  dsimp only
  rw [snapByte_eq hv hlow (by omega), snapByte_eq hv (by omega) (by omega),
    snapByte_eq hv (by omega) (by omega), snapByte_eq hv (by omega) hhigh, hraw]

/-- A binary32 field. -/
theorem fieldValue_float (hv : ∀ k, k < 28 → v[k]? = some (b (k + 1))) {raw : Nat → Nat}
    (hraw : ∀ a, raw a = (b a).toNat + 256 * (b (a + 1)).toNat + 65536 * (b (a + 2)).toNat +
      16777216 * (b (a + 3)).toNat) {a : Nat} (hlow : 1 ≤ a) (hhigh : a + 3 ≤ 28) :
    fieldValue Config.packetLayout .little v ⟨a, 4, .binary32⟩ = floatField (raw a) := by
  rw [fieldValue, fieldRaw_four hv hraw _ hlow hhigh]
  rfl

end fields

/-- A number below 2^32 as a two's complement number of 32 bits. -/
theorem toInt_ofNat_32 {n : Nat} (h : n < 2 ^ 32) :
    (BitVec.ofNat 32 n).toInt = if n < 2 ^ 31 then (n : Int) else (n : Int) - 2 ^ 32 := by
  rw [BitVec.toInt_eq_toNat_cond, BitVec.toNat_ofNat, Nat.mod_eq_of_lt h]
  split_ifs <;> omega

/-- Every field of every layout lies in the bytes read for it. -/
theorem fieldRaw_of_read {lay : PacketLayout} (order : FieldByteOrder) (m : Nat → Byte) {f : PacketField}
    (hf : f ∈ layoutFields lay) :
    fieldRaw lay order ((List.range (packetFixedLength lay)).map (fun k => m (packetBase lay + k))) f =
      assembleBytes order ((List.range f.width).map (fun j => m (f.addr + j))) := by
  have hlow := packetBase_le hf
  have hhigh := le_packetEnd hf
  refine congrArg (assembleBytes order) (List.map_congr_left fun j hj => ?_)
  rw [List.mem_range] at hj
  have hinside : f.addr + j - packetBase lay < packetFixedLength lay := by
    unfold packetFixedLength
    omega
  rw [snapByte, List.getD_eq_getElem?_getD, List.getElem?_map, List.getElem?_range hinside, Option.map_some,
    Option.getD_some, Nat.add_sub_cancel' (by omega)]

/-- Settles O54: field by field in the reference layout, and every layout's fields inside the bytes read for it. -/
theorem packetFieldsFollowTheLayout : Obligations.PacketFieldsFollowTheLayout := by
  refine ⟨fun v b raw hlength hv hraw => ?_, fun lay order m f => fieldRaw_of_read order m⟩
  obtain ⟨pk, hpk, rfl⟩ := decodePacket_of_length hlength
  have hctl : v.getD 27 0 = b 0x1C := by
    rw [List.getD_eq_getElem?_getD, hv 27 (by omega)]
    rfl
  have hrpm := fieldRaw_four hv hraw (a := 0x06) .signed (by omega) (by omega)
  have hrpmLt : raw 0x06 < 2 ^ 32 := by
    have h0 := (b 6).isLt
    have h1 := (b (6 + 1)).isLt
    have h2 := (b (6 + 2)).isLt
    have h3 := (b (6 + 3)).isLt
    rw [hraw]
    omega
  have hbyte (a : Nat) (ha : 1 ≤ a ∧ a ≤ 28) := fieldValue_byte hv ha.1 ha.2
  have hfloat (a : Nat) (ha : 1 ≤ a ∧ a + 3 ≤ 28) := fieldValue_float hv hraw ha.1 ha.2
  refine ⟨_, hpk, hbyte 0x01 (by decide), hbyte 0x02 (by decide), hbyte 0x03 (by decide), hbyte 0x04 (by decide),
    hbyte 0x05 (by decide), hrpm, ?rpm, hfloat 0x0A (by decide), hfloat 0x0E (by decide), hfloat 0x12 (by decide),
    congrArg axisOf (hfloat 0x16 (by decide)), hbyte 0x1A (by decide), hbyte 0x1B (by decide), ?ctl, ?message⟩
  case rpm =>
    rw [← toInt_ofNat_32 hrpmLt, ← hrpm]
    rfl
  case ctl => rw [hctl]
  case message => rw [hctl]

/-! ### The fourth axis -/

/-- A binary32 field reads as the value of its pattern. -/
theorem floatField_reading (raw : BitVec 32) : (floatField raw.toNat).reading = .binary32 (binary32 raw) := by
  rw [floatField, BitVec.ofNat_toNat, BitVec.setWidth_eq]

/-- The axis is absent exactly for the patterns of R117's NaN test. -/
theorem axisOf_floatField (raw : BitVec 32) :
    axisOf (floatField raw.toNat) = if isNan raw then .absent else .present (floatField raw.toNat) := by
  unfold axisOf
  rw [floatField_reading, binary32]
  split_ifs <;> rfl

theorem exponentBits_toNat (raw : BitVec 32) : (exponentBits raw).toNat = raw.toNat / 2 ^ 23 % 2 ^ 8 := by
  rw [exponentBits, BitVec.extractLsb'_toNat, Nat.shiftRight_eq_div_pow]

theorem fractionBits_toNat (raw : BitVec 32) : (fractionBits raw).toNat = raw.toNat % 2 ^ 23 := by
  rw [fractionBits, BitVec.extractLsb'_toNat, Nat.shiftRight_zero]

/-- The NaN test in the pattern's number (R117). -/
theorem isNan_iff (raw : BitVec 32) :
    isNan raw = true ↔ raw.toNat / 2 ^ 23 % 2 ^ 8 = 0xFF ∧ raw.toNat % 2 ^ 23 ≠ 0 := by
  rw [isNan, Bool.and_eq_true, beq_iff_eq, bne_iff_ne, ← BitVec.toNat_inj, ne_eq, ← BitVec.toNat_inj,
    exponentBits_toNat, fractionBits_toNat]
  rfl

/-- The patterns of the two infinities: the exponent of a NaN, and the fraction 0 (R117). -/
theorem binary32_infinity {raw : BitVec 32} (h : raw.toNat % 2 ^ 31 = 0x7F800000) :
    ¬ isNan raw = true ∧ binary32 raw = .infinity (decide (2 ^ 31 ≤ raw.toNat)) := by
  have hexponent : exponentBits raw = 0xFF := by
    apply BitVec.eq_of_toNat_eq
    rw [exponentBits_toNat]
    change _ = 255
    omega
  have hnan : ¬ isNan raw = true := by
    rw [isNan_iff]
    omega
  exact ⟨hnan, by rw [binary32, if_neg hnan, if_pos hexponent, BitVec.msb_eq_decide]⟩

/-- Settles O55: the axis by the NaN test, and the test on the two infinities. -/
theorem axisIsAbsentExactlyForNan : Obligations.AxisIsAbsentExactlyForNan := by
  rintro raw f rfl
  rw [axisOf_floatField, ← isNan_iff, floatField_reading]
  refine ⟨?_, ?_, fun h => ?_⟩
  · split_ifs with hnan <;> simp [hnan]
  · split_ifs with hnan
    · exact fun h => absurd rfl h
    · exact fun _ => ⟨rfl, rfl⟩
  · obtain ⟨hnan, hvalue⟩ := binary32_infinity h
    rw [if_neg hnan, hvalue]
    exact ⟨rfl, rfl⟩

/-! ### msg_ctl and the host connection -/

/-- Settles O56: the class by msg_ctl's number, and a message for 1 to 127 only. -/
theorem messageControlTable : Obligations.MessageControlTable := by
  intro v c hc
  have hlength : 28 ≤ v.length := (List.getElem?_eq_some_iff.1 hc).1
  obtain ⟨pk, hpk, rfl⟩ := decodePacket_of_length hlength
  have hctl : v.getD 27 0 = c := by rw [List.getD_eq_getElem?_getD, hc, Option.getD_some]
  refine ⟨_, hpk, ?_⟩
  simp only [hctl]
  have hbyte := c.isLt
  generalize c.toNat = n at hbyte
  refine ⟨?_, fun hlow hhigh => ?_, fun hlow hhigh => ?_, ?_, ?_, ?_⟩
  · rintro rfl
    exact ⟨rfl, rfl⟩
  · exact ⟨by rw [classifyMsgCtl, if_neg (by omega), if_pos hhigh], if_pos hhigh⟩
  · refine ⟨?_, if_neg (by omega)⟩
    rw [classifyMsgCtl, if_neg (by omega), if_neg (by omega), if_neg (by omega), if_neg (by omega), if_neg (by omega)]
  · rintro rfl
    exact ⟨rfl, rfl⟩
  · rintro rfl
    exact ⟨rfl, rfl⟩
  · rintro rfl
    exact ⟨rfl, rfl⟩

/-- Settles O57: the predicate of R120 is on status_code, the second byte of the read. -/
theorem noHostSuppressesTheUpdate : Obligations.NoHostSuppressesTheUpdate := by
  intro noHost v hlength
  obtain ⟨pk, hpk, hfields⟩ := decodePacket_of_length hlength
  have hstatus : v[1]?.map BitVec.toNat = some pk.statusCode.raw := by
    have hraw : pk.statusCode.raw = (v.getD 1 0).toNat := by
      rw [hfields]
      exact (fieldRaw_of_width_one rfl _ v).trans (congrArg _ (snapByte_reference v _))
    rw [hraw, List.getD_eq_getElem?_getD, List.getElem?_eq_getElem (by omega)]
    rfl
  refine ⟨pk, hpk, ?_⟩
  rw [consumerUpdateWith, hpk, hstatus, Option.filter_some, hostConnected]
  by_cases hhost : pk.statusCode.raw = noHost <;> simp [hhost]

end Sys2Proof.Proofs

/-! PROOF. The I2C framing (R69 to R76): what transfers become, and that every bus activity gives events of the grammar
of R74, which the model's check decides. -/

namespace Sys2Proof.Proofs

open Sys2Proof.Machine Sys2Proof.Safety

section transfers
variable (own : BitVec 7) (ys : List BusActivity)

/-- The data bytes of a write transfer to this block. -/
theorem frameEvents_writes (bs : List Byte) :
    frameEvents own .writing (bs.map .hostWrites ++ ys) = bs.map .rx ++ frameEvents own .writing ys := by
  induction bs with
  | nil => rfl
  | cons b bs ih => exact congrArg (Instr.rx b :: ·) ih

/-- The bytes of a read transfer from this block. -/
theorem frameEvents_reads (acks : List Bool) :
    frameEvents own .reading (acks.map .hostReads ++ ys) =
      List.replicate acks.length .req ++ frameEvents own .reading ys := by
  induction acks with
  | nil => rfl
  | cons a acks ih => exact congrArg (Instr.req :: ·) ih

/-- Data bytes of another slave's transfer. -/
theorem frameEvents_foreign_writes (bs : List Byte) :
    frameEvents own .foreign (bs.map .hostWrites ++ ys) = frameEvents own .foreign ys := by
  induction bs with
  | nil => rfl
  | cons b bs ih => exact ih

/-- Bytes read from another slave. -/
theorem frameEvents_foreign_reads (acks : List Bool) :
    frameEvents own .foreign (acks.map .hostReads ++ ys) = frameEvents own .foreign ys := by
  induction acks with
  | nil => rfl
  | cons a acks ih => exact ih

/-- A START and this block's address with RW = 0 open a write transfer. -/
theorem frameEvents_openWrite (f : FrameState) :
    frameEvents own f (.start :: .address own false :: ys) = endOf f ++ frameEvents own .writing ys := by
  simp [frameEvents, frameStep]

/-- With RW = 1 they open a read transfer. -/
theorem frameEvents_openRead (f : FrameState) :
    frameEvents own f (.start :: .address own true :: ys) = endOf f ++ frameEvents own .reading ys := by
  simp [frameEvents, frameStep]

/-- Another slave's address opens a foreign transfer. -/
theorem frameEvents_openForeign {other : BitVec 7} (h : other ≠ own) (f : FrameState) (read : Bool) :
    frameEvents own f (.start :: .address other read :: ys) = endOf f ++ frameEvents own .foreign ys := by
  simp [frameEvents, frameStep, h]

end transfers

/-- Settles O58: each transfer opened, its bytes, and what closes it. -/
theorem transfersBecomeBusEvents : Obligations.TransfersBecomeBusEvents := by
  intro own other bs acks hother
  refine ⟨?_, ?_, ?_, fun read => ?_⟩
  · rw [frameEvents_openWrite, frameEvents_writes]
    rfl
  · rw [frameEvents_openRead, frameEvents_reads]
    rfl
  · rw [frameEvents_openWrite, frameEvents_writes, frameEvents_openRead, frameEvents_reads]
    rfl
  · rw [frameEvents_openForeign own _ hother, frameEvents_foreign_writes, frameEvents_foreign_reads]
    rfl

/-! ### The grammar and its check -/

/-- The check of two lists, one after the other. -/
theorem txnAfter_append (t : TxnState) (xs ys : List Instr) :
    txnAfter t (xs ++ ys) = (txnAfter t xs).bind (fun u => txnAfter u ys) := by
  induction xs generalizing t with
  | nil => rfl
  | cons e xs ih =>
    rw [List.cons_append, txnAfter, txnAfter]
    cases txnStep t e with
    | none => rfl
    | some u => exact ih u

/-- A transaction of the grammar brings the check from a boundary to a boundary. -/
theorem txnAfter_txnEvents (x : Txn) : txnAfter .boundary (txnEvents x) = some .boundary := by
  have hwrites (bs : List Byte) : txnAfter .inWrite (bs.map .rx ++ [.txEnd]) = some .boundary := by
    induction bs with
    | nil => rfl
    | cons b bs ih =>
      rw [List.map_cons, List.cons_append, txnAfter]
      exact ih
  have hreads (n : Nat) : txnAfter .inRead (List.replicate n .req ++ [.txEnd]) = some .boundary := by
    induction n with
    | zero => rfl
    | succ n ih =>
      rw [List.replicate_succ, List.cons_append, txnAfter]
      exact ih
  cases x with
  | write b bs => exact hwrites bs
  | read more => exact hreads more
  | addressOnly => rfl

/-- One more transaction before a legal sequence. -/
theorem i2cLegal_cons {es : List Instr} (h : I2cLegal es) (x : Txn) : I2cLegal (txnEvents x ++ es) := by
  obtain ⟨ts, rfl⟩ := h
  exact ⟨x :: ts, rfl⟩

/-- What completes a sequence from a place in the grammar: the rest of the transaction begun, and a legal sequence. -/
def CompletesFrom (es : List Instr) : TxnState → Prop
  | .boundary => I2cLegal es
  | .inWrite => ∃ (bs : List Byte) (rest : List Instr), es = bs.map .rx ++ .txEnd :: rest ∧ I2cLegal rest
  | .inRead => ∃ n rest, es = List.replicate n .req ++ .txEnd :: rest ∧ I2cLegal rest

/-- What the check accepts from a place in the grammar completes a sequence from there. -/
theorem completesFrom_of_txnAfter {es : List Instr} {t : TxnState} (h : txnAfter t es = some .boundary) :
    CompletesFrom es t := by
  induction es generalizing t with
  | nil =>
    cases h
    exact ⟨[], rfl⟩
  | cons e es ih =>
    obtain ⟨u, hu, hrest⟩ := Option.bind_eq_some_iff.1 h
    have hes := ih hrest
    unfold txnStep at hu
    split at hu <;> cases hu
    case h_1 =>
      cases t with
      | boundary => exact i2cLegal_cons hes .addressOnly
      | inWrite => exact ⟨[], es, rfl, hes⟩
      | inRead => exact ⟨0, es, rfl, hes⟩
    case h_2 b =>
      obtain ⟨bs, rest, rfl, hlegal⟩ := hes
      have hwrite := i2cLegal_cons hlegal (.write b bs)
      simpa [txnEvents, CompletesFrom] using hwrite
    case h_3 b =>
      obtain ⟨bs, rest, rfl, hlegal⟩ := hes
      exact ⟨b :: bs, rest, rfl, hlegal⟩
    case h_4 =>
      obtain ⟨n, rest, rfl, hlegal⟩ := hes
      have hread := i2cLegal_cons hlegal (.read n)
      simpa [txnEvents, CompletesFrom, List.replicate_succ] using hread
    case h_5 =>
      obtain ⟨n, rest, rfl, hlegal⟩ := hes
      exact ⟨n + 1, rest, rfl, hlegal⟩

/-- The check of R74's grammar accepts exactly the sequences of whole transactions. -/
theorem i2cLegalCheck_iff (es : List Instr) : i2cLegalCheck es = true ↔ I2cLegal es := by
  rw [i2cLegalCheck, beq_iff_eq]
  refine ⟨completesFrom_of_txnAfter, ?_⟩
  rintro ⟨ts, rfl⟩
  induction ts with
  | nil => rfl
  | cons x ts ih => rw [List.flatMap_cons, txnAfter_append, txnAfter_txnEvents, Option.bind_some, ih]

/-- Where the grammar can stand while the bus stands somewhere: inside a transaction only while a transfer addressed to
this block is open, and then of its direction. -/
def PlaceMatches : FrameState → TxnState → Prop
  | .writing, t => t ≠ .inRead
  | .reading, t => t ≠ .inWrite
  | .free, t => t = .boundary
  | .started, t => t = .boundary
  | .foreign, t => t = .boundary

/-- What ends a transfer ends the transaction. -/
theorem txnAfter_endOf {f : FrameState} {t : TxnState} (h : PlaceMatches f t) :
    txnAfter t (endOf f) = some .boundary := by
  cases f with
  | writing | reading => cases t <;> rfl
  | free | started | foreign => exact congrArg some h

/-- One activity gives events that the grammar goes on with, to a place that matches the bus. -/
theorem txnAfter_frameStep (own : BitVec 7) {f : FrameState} {t : TxnState} (h : PlaceMatches f t) (x : BusActivity) :
    ∃ u, txnAfter t (frameStep own f x).2 = some u ∧ PlaceMatches (frameStep own f x).1 u := by
  cases x with
  | start => exact ⟨.boundary, txnAfter_endOf h, rfl⟩
  | stop => exact ⟨.boundary, txnAfter_endOf h, rfl⟩
  | address a read =>
    refine ⟨t, by cases f <;> rfl, ?_⟩
    cases f with
    | started =>
      obtain rfl : t = .boundary := h
      simp only [frameStep]
      split_ifs <;> simp [PlaceMatches]
    | _ => exact h
  | hostWrites b =>
    cases f with
    | writing =>
      refine ⟨.inWrite, ?_, nofun⟩
      cases t with
      | inRead => exact absurd rfl h
      | _ => rfl
    | _ => exact ⟨t, rfl, h⟩
  | hostReads ack =>
    cases f with
    | reading =>
      refine ⟨.inRead, ?_, nofun⟩
      cases t with
      | inWrite => exact absurd rfl h
      | _ => rfl
    | _ => exact ⟨t, rfl, h⟩

/-- The events of any activity stay inside the grammar. -/
theorem txnAfter_frameEvents (own : BitVec 7) {f : FrameState} {t : TxnState} (h : PlaceMatches f t)
    (xs : List BusActivity) :
    ∃ u, txnAfter t (frameEvents own f xs) = some u ∧ PlaceMatches (frameAfter own f xs) u := by
  induction xs generalizing f t with
  | nil => exact ⟨t, rfl, h⟩
  | cons x xs ih =>
    obtain ⟨u, hu, hmatch⟩ := txnAfter_frameStep own h x
    obtain ⟨u', hu', hmatch'⟩ := ih hmatch
    exact ⟨u', by rw [frameEvents, txnAfter_append, hu, Option.bind_some, hu'], hmatch'⟩

/-- Settles O59: with no transfer open the grammar stands at a boundary. -/
theorem busActivityIsI2cLegal : Obligations.BusActivityIsI2cLegal := by
  refine ⟨fun own xs hclosed => ?_, i2cLegalCheck_iff⟩
  obtain ⟨u, hu, hmatch⟩ := txnAfter_frameEvents own (f := .free) (t := .boundary) rfl xs
  have hboundary : u = .boundary := by
    generalize frameAfter own .free xs = f at hclosed hmatch
    cases f with
    | writing | reading => exact nomatch hclosed
    | free | started | foreign => exact hmatch
  rw [← i2cLegalCheck_iff, i2cLegalCheck, hu, hboundary]
  rfl

end Sys2Proof.Proofs
